-- ==== Sys2Proof/Word.lean ====
section
/-! DEFINITION. The word types of `deflate_bit_reader` (spec rule R13) and the table entry of rule R123. -/

namespace Sys2Proof

/-- A byte, 8 bits (R13). -/
abbrev Byte := BitVec 8

/-- A 32-bit word: the accumulator, the checksum words, the host pointers and lengths. -/
abbrev Word := BitVec 32

/-- A Huffman table entry, format `TENTRY` (R123): the operation tag, the bits the entry's level consumes, and the value
(a literal byte, a base, a code-length symbol, or the offset of a sub-table). -/
structure Entry where
  op   : BitVec 8
  bits : BitVec 4
  val  : BitVec 16
deriving DecidableEq, Repr

/-- The entry of an empty table, which is also what table RAM beyond a table's end reads as (R165; log 4). -/
def Entry.invalid : Entry := ⟨0x40, 0, 0⟩

end Sys2Proof
end

