-- ==== Sys2Proof/Syntax.lean ====
section
/-! DEFINITION. The syntax: one constructor of `Instr` per row of spec/opcode_table.json (R129).  An operand `n` is the number
of bits the Huffman code takes at its table level (the entry's `bits` field, R123). -/

namespace Sys2Proof

/-- The host commands, the stream elements and the table entries the engine decodes (R100, R129). -/
inductive Instr where
  /-- `INIT`. Host command 0x01 (R101, R283); its operand is the register `ARG`. -/
  | init
  /-- `RESET`. Host command 0x02 (R101, R285). -/
  | reset
  /-- `STEP`. Host command 0x03 (R101, R287); its operand is the register `ARG`. -/
  | stepCmd
  /-- `SET_DICT`. Host command 0x04 (R101, R297); its operands are `DICT_PTR`, `DICT_LEN`. -/
  | setDict
  /-- `SYNC`. Host command 0x05 (R101, R300). -/
  | sync
  /-- `END`. Host command 0x06 (R101, R286). -/
  | endCmd
  /-- `CMD_ILLEGAL`. A command code that is not 0x01..0x06 (R101, R281). -/
  | cmdIllegal (c : Byte)
  /-- `CMF`. The zlib method byte (R104, R291). -/
  | cmf (c : Byte)
  /-- `FLG`. The zlib flag byte (R105, R292). -/
  | flg (f : Byte)
  /-- `DICTID`. Byte `k` (0 first) of the dictionary id (R106, R293). -/
  | dictid (k : Fin 4) (b : Byte)
  /-- `ADLER32`. Byte `k` (0 first) of the trailer (R107, R296). -/
  | adler32 (k : Fin 4) (b : Byte)
  /-- `BLK_STORED`. A block header, type stored (R109, R192); `final` is BFINAL. -/
  | blkStored (final : Bool)
  /-- `BLK_FIXED`. A block header, type fixed (R109, R193); `final` is BFINAL. -/
  | blkFixed (final : Bool)
  /-- `BLK_DYNAMIC`. A block header, type dynamic (R109, R194); `final` is BFINAL. -/
  | blkDynamic (final : Bool)
  /-- `BLK_RESERVED`. A block header, type reserved (R109, R195); `final` is BFINAL. -/
  | blkReserved (final : Bool)
  /-- `ALIGN`. The `n` padding bits up to the next byte boundary, of value `pad` (R110, R146, R192, R295). -/
  | align (n : BitVec 3) (pad : BitVec 7)
  /-- `STLEN`. The 32-bit length field of a stored block (R110, R196). -/
  | stlen (len : BitVec 16) (nlen : BitVec 16)
  /-- `RAW`. One raw byte of a stored block (R110, R197). -/
  | raw (b : Byte)
  /-- `COUNTS`. The 14-bit count field of a dynamic block (R111, R198). -/
  | counts (hlit : BitVec 5) (hdist : BitVec 5) (hclen : BitVec 4)
  /-- `CLL`. One code-length-code length (R112, R199). -/
  | cll (l : BitVec 3)
  /-- `CL_LEN_0`. Code-length symbol 0, a code of `n` bits (R113, R201). -/
  | clLen0 (n : BitVec 4)
  /-- `CL_LEN_1`. Code-length symbol 1, a code of `n` bits (R113, R201). -/
  | clLen1 (n : BitVec 4)
  /-- `CL_LEN_2`. Code-length symbol 2, a code of `n` bits (R113, R201). -/
  | clLen2 (n : BitVec 4)
  /-- `CL_LEN_3`. Code-length symbol 3, a code of `n` bits (R113, R201). -/
  | clLen3 (n : BitVec 4)
  /-- `CL_LEN_4`. Code-length symbol 4, a code of `n` bits (R113, R201). -/
  | clLen4 (n : BitVec 4)
  /-- `CL_LEN_5`. Code-length symbol 5, a code of `n` bits (R113, R201). -/
  | clLen5 (n : BitVec 4)
  /-- `CL_LEN_6`. Code-length symbol 6, a code of `n` bits (R113, R201). -/
  | clLen6 (n : BitVec 4)
  /-- `CL_LEN_7`. Code-length symbol 7, a code of `n` bits (R113, R201). -/
  | clLen7 (n : BitVec 4)
  /-- `CL_LEN_8`. Code-length symbol 8, a code of `n` bits (R113, R201). -/
  | clLen8 (n : BitVec 4)
  /-- `CL_LEN_9`. Code-length symbol 9, a code of `n` bits (R113, R201). -/
  | clLen9 (n : BitVec 4)
  /-- `CL_LEN_10`. Code-length symbol 10, a code of `n` bits (R113, R201). -/
  | clLen10 (n : BitVec 4)
  /-- `CL_LEN_11`. Code-length symbol 11, a code of `n` bits (R113, R201). -/
  | clLen11 (n : BitVec 4)
  /-- `CL_LEN_12`. Code-length symbol 12, a code of `n` bits (R113, R201). -/
  | clLen12 (n : BitVec 4)
  /-- `CL_LEN_13`. Code-length symbol 13, a code of `n` bits (R113, R201). -/
  | clLen13 (n : BitVec 4)
  /-- `CL_LEN_14`. Code-length symbol 14, a code of `n` bits (R113, R201). -/
  | clLen14 (n : BitVec 4)
  /-- `CL_LEN_15`. Code-length symbol 15, a code of `n` bits (R113, R201). -/
  | clLen15 (n : BitVec 4)
  /-- `CL_REP`. Code-length symbol 16 and its extra bits (R113, R202). -/
  | clRep (n : BitVec 4) (x : BitVec 2)
  /-- `CL_ZREP3`. Code-length symbol 17 and its extra bits (R113, R203). -/
  | clZrep3 (n : BitVec 4) (x : BitVec 3)
  /-- `CL_ZREP11`. Code-length symbol 18 and its extra bits (R113, R204). -/
  | clZrep11 (n : BitVec 4) (x : BitVec 7)
  /-- `CL_INVALID`. A bit pattern with no code in the code-length code (R113, R205). -/
  | clInvalid (n : BitVec 4)
  /-- `LIT`. A literal, a code of `n` bits at this table level (R115, R223). -/
  | lit (n : BitVec 4) (b : Byte)
  /-- `EOB`. End of block, symbol 256 (R115, R224). -/
  | eob (n : BitVec 4)
  /-- `LEN_257`. Length symbol 257: base 3, 0 extra bits (R117, R225). -/
  | len257 (n : BitVec 4)
  /-- `LEN_258`. Length symbol 258: base 4, 0 extra bits (R117, R225). -/
  | len258 (n : BitVec 4)
  /-- `LEN_259`. Length symbol 259: base 5, 0 extra bits (R117, R225). -/
  | len259 (n : BitVec 4)
  /-- `LEN_260`. Length symbol 260: base 6, 0 extra bits (R117, R225). -/
  | len260 (n : BitVec 4)
  /-- `LEN_261`. Length symbol 261: base 7, 0 extra bits (R117, R225). -/
  | len261 (n : BitVec 4)
  /-- `LEN_262`. Length symbol 262: base 8, 0 extra bits (R117, R225). -/
  | len262 (n : BitVec 4)
  /-- `LEN_263`. Length symbol 263: base 9, 0 extra bits (R117, R225). -/
  | len263 (n : BitVec 4)
  /-- `LEN_264`. Length symbol 264: base 10, 0 extra bits (R117, R225). -/
  | len264 (n : BitVec 4)
  /-- `LEN_265`. Length symbol 265: base 11, 1 extra bits (R117, R225). -/
  | len265 (n : BitVec 4)
  /-- `LEN_266`. Length symbol 266: base 13, 1 extra bits (R117, R225). -/
  | len266 (n : BitVec 4)
  /-- `LEN_267`. Length symbol 267: base 15, 1 extra bits (R117, R225). -/
  | len267 (n : BitVec 4)
  /-- `LEN_268`. Length symbol 268: base 17, 1 extra bits (R117, R225). -/
  | len268 (n : BitVec 4)
  /-- `LEN_269`. Length symbol 269: base 19, 2 extra bits (R117, R225). -/
  | len269 (n : BitVec 4)
  /-- `LEN_270`. Length symbol 270: base 23, 2 extra bits (R117, R225). -/
  | len270 (n : BitVec 4)
  /-- `LEN_271`. Length symbol 271: base 27, 2 extra bits (R117, R225). -/
  | len271 (n : BitVec 4)
  /-- `LEN_272`. Length symbol 272: base 31, 2 extra bits (R117, R225). -/
  | len272 (n : BitVec 4)
  /-- `LEN_273`. Length symbol 273: base 35, 3 extra bits (R117, R225). -/
  | len273 (n : BitVec 4)
  /-- `LEN_274`. Length symbol 274: base 43, 3 extra bits (R117, R225). -/
  | len274 (n : BitVec 4)
  /-- `LEN_275`. Length symbol 275: base 51, 3 extra bits (R117, R225). -/
  | len275 (n : BitVec 4)
  /-- `LEN_276`. Length symbol 276: base 59, 3 extra bits (R117, R225). -/
  | len276 (n : BitVec 4)
  /-- `LEN_277`. Length symbol 277: base 67, 4 extra bits (R117, R225). -/
  | len277 (n : BitVec 4)
  /-- `LEN_278`. Length symbol 278: base 83, 4 extra bits (R117, R225). -/
  | len278 (n : BitVec 4)
  /-- `LEN_279`. Length symbol 279: base 99, 4 extra bits (R117, R225). -/
  | len279 (n : BitVec 4)
  /-- `LEN_280`. Length symbol 280: base 115, 4 extra bits (R117, R225). -/
  | len280 (n : BitVec 4)
  /-- `LEN_281`. Length symbol 281: base 131, 5 extra bits (R117, R225). -/
  | len281 (n : BitVec 4)
  /-- `LEN_282`. Length symbol 282: base 163, 5 extra bits (R117, R225). -/
  | len282 (n : BitVec 4)
  /-- `LEN_283`. Length symbol 283: base 195, 5 extra bits (R117, R225). -/
  | len283 (n : BitVec 4)
  /-- `LEN_284`. Length symbol 284: base 227, 5 extra bits (R117, R225). -/
  | len284 (n : BitVec 4)
  /-- `LEN_285`. Length symbol 285: base 258, 0 extra bits (R117, R225). -/
  | len285 (n : BitVec 4)
  /-- `LL_RESERVED_286`. Reserved literal/length symbol 286, fixed code 11000110 (R115, R227). -/
  | llReserved286
  /-- `LL_RESERVED_287`. Reserved literal/length symbol 287, fixed code 11000111 (R115, R227). -/
  | llReserved287
  /-- `LL_INVALID`. A bit pattern with no literal/length code (R115, R227). -/
  | llInvalid (n : BitVec 4)
  /-- `DIST_0`. Distance symbol 0: base 1, 0 extra bits (R118, R230). -/
  | dist0 (n : BitVec 4)
  /-- `DIST_1`. Distance symbol 1: base 2, 0 extra bits (R118, R230). -/
  | dist1 (n : BitVec 4)
  /-- `DIST_2`. Distance symbol 2: base 3, 0 extra bits (R118, R230). -/
  | dist2 (n : BitVec 4)
  /-- `DIST_3`. Distance symbol 3: base 4, 0 extra bits (R118, R230). -/
  | dist3 (n : BitVec 4)
  /-- `DIST_4`. Distance symbol 4: base 5, 1 extra bits (R118, R230). -/
  | dist4 (n : BitVec 4)
  /-- `DIST_5`. Distance symbol 5: base 7, 1 extra bits (R118, R230). -/
  | dist5 (n : BitVec 4)
  /-- `DIST_6`. Distance symbol 6: base 9, 2 extra bits (R118, R230). -/
  | dist6 (n : BitVec 4)
  /-- `DIST_7`. Distance symbol 7: base 13, 2 extra bits (R118, R230). -/
  | dist7 (n : BitVec 4)
  /-- `DIST_8`. Distance symbol 8: base 17, 3 extra bits (R118, R230). -/
  | dist8 (n : BitVec 4)
  /-- `DIST_9`. Distance symbol 9: base 25, 3 extra bits (R118, R230). -/
  | dist9 (n : BitVec 4)
  /-- `DIST_10`. Distance symbol 10: base 33, 4 extra bits (R118, R230). -/
  | dist10 (n : BitVec 4)
  /-- `DIST_11`. Distance symbol 11: base 49, 4 extra bits (R118, R230). -/
  | dist11 (n : BitVec 4)
  /-- `DIST_12`. Distance symbol 12: base 65, 5 extra bits (R118, R230). -/
  | dist12 (n : BitVec 4)
  /-- `DIST_13`. Distance symbol 13: base 97, 5 extra bits (R118, R230). -/
  | dist13 (n : BitVec 4)
  /-- `DIST_14`. Distance symbol 14: base 129, 6 extra bits (R118, R230). -/
  | dist14 (n : BitVec 4)
  /-- `DIST_15`. Distance symbol 15: base 193, 6 extra bits (R118, R230). -/
  | dist15 (n : BitVec 4)
  /-- `DIST_16`. Distance symbol 16: base 257, 7 extra bits (R118, R230). -/
  | dist16 (n : BitVec 4)
  /-- `DIST_17`. Distance symbol 17: base 385, 7 extra bits (R118, R230). -/
  | dist17 (n : BitVec 4)
  /-- `DIST_18`. Distance symbol 18: base 513, 8 extra bits (R118, R230). -/
  | dist18 (n : BitVec 4)
  /-- `DIST_19`. Distance symbol 19: base 769, 8 extra bits (R118, R230). -/
  | dist19 (n : BitVec 4)
  /-- `DIST_20`. Distance symbol 20: base 1025, 9 extra bits (R118, R230). -/
  | dist20 (n : BitVec 4)
  /-- `DIST_21`. Distance symbol 21: base 1537, 9 extra bits (R118, R230). -/
  | dist21 (n : BitVec 4)
  /-- `DIST_22`. Distance symbol 22: base 2049, 10 extra bits (R118, R230). -/
  | dist22 (n : BitVec 4)
  /-- `DIST_23`. Distance symbol 23: base 3073, 10 extra bits (R118, R230). -/
  | dist23 (n : BitVec 4)
  /-- `DIST_24`. Distance symbol 24: base 4097, 11 extra bits (R118, R230). -/
  | dist24 (n : BitVec 4)
  /-- `DIST_25`. Distance symbol 25: base 6145, 11 extra bits (R118, R230). -/
  | dist25 (n : BitVec 4)
  /-- `DIST_26`. Distance symbol 26: base 8193, 12 extra bits (R118, R230). -/
  | dist26 (n : BitVec 4)
  /-- `DIST_27`. Distance symbol 27: base 12289, 12 extra bits (R118, R230). -/
  | dist27 (n : BitVec 4)
  /-- `DIST_28`. Distance symbol 28: base 16385, 13 extra bits (R118, R230). -/
  | dist28 (n : BitVec 4)
  /-- `DIST_29`. Distance symbol 29: base 24577, 13 extra bits (R118, R230). -/
  | dist29 (n : BitVec 4)
  /-- `D_RESERVED_30`. Reserved distance symbol 30, fixed code 11110 (R116, R232). -/
  | dReserved30
  /-- `D_RESERVED_31`. Reserved distance symbol 31, fixed code 11111 (R116, R232). -/
  | dReserved31
  /-- `D_INVALID`. A bit pattern with no distance code, or any in an empty set (R116, R232). -/
  | dInvalid (n : BitVec 4)
  /-- `LEN_EXTRA`. The `w` extra bits of a length (R117, R228). -/
  | lenExtra (w : BitVec 4) (x : BitVec 15)
  /-- `DIST_EXTRA`. The `w` extra bits of a distance (R118, R233). -/
  | distExtra (w : BitVec 4) (x : BitVec 15)
  /-- `T_LIT`. A table entry of class LIT that is no symbol of its alphabet (R123, R174). -/
  | tLit (n : BitVec 4) (v : BitVec 16)
  /-- `T_LINK`. A table entry of class LINK: go on in a sub-table of `w` index bits (R123, R177). -/
  | tLink (w : BitVec 4) (n : BitVec 4) (v : BitVec 16)
  /-- `T_BASE`. A table entry of class BASE that is no symbol of its alphabet (R123, R174). -/
  | tBase (x : BitVec 4) (n : BitVec 4) (v : BitVec 16)
  /-- `T_EOB`. A table entry of class EOB that is no symbol of its alphabet (R123, R174). -/
  | tEob (n : BitVec 4) (v : BitVec 16)
  /-- `T_INVALID`. A table entry of class INVALID that `build` gives no alphabet (R123, R180). -/
  | tInvalid (op : BitVec 8) (n : BitVec 4) (v : BitVec 16)
deriving DecidableEq, Repr

end Sys2Proof
end

