-- ==== Sys2Proof/WellFormed.lean ====
section
/-! DEFINITION. Which terms of `Instr` stand for an encoding the formats of 30_encoding.md have. -/

namespace Sys2Proof

/-- A code of the code-length alphabet has 1 to 7 bits (R113). -/
def wfClCode (n : BitVec 4) : Bool := 1 ≤ n.toNat && n.toNat ≤ 7

/-- A code of the literal/length or distance alphabet takes 1 to 15 bits (R19 "Code", R122). -/
def wfCode (n : BitVec 4) : Bool := 1 ≤ n.toNat

/-- The well-formed instructions.  Operands whose width is their type need no check. -/
def Instr.wf : Instr → Bool
  | .init => true
  | .reset => true
  | .stepCmd => true
  | .setDict => true
  | .sync => true
  | .endCmd => true
  -- R101: the codes 0x01..0x06 are the six commands
  | .cmdIllegal c => c.toNat = 0 || 7 ≤ c.toNat
  | .cmf _ => true
  | .flg _ => true
  | .dictid _ _ => true
  | .adler32 _ _ => true
  | .blkStored _ => true
  | .blkFixed _ => true
  | .blkDynamic _ => true
  | .blkReserved _ => true
  -- R110: the padding is a field of `n` bits
  | .align n pad => pad.toNat < 2 ^ n.toNat
  | .stlen _ _ => true
  | .raw _ => true
  | .counts _ _ _ => true
  | .cll _ => true
  | .clLen0 n => wfClCode n
  | .clLen1 n => wfClCode n
  | .clLen2 n => wfClCode n
  | .clLen3 n => wfClCode n
  | .clLen4 n => wfClCode n
  | .clLen5 n => wfClCode n
  | .clLen6 n => wfClCode n
  | .clLen7 n => wfClCode n
  | .clLen8 n => wfClCode n
  | .clLen9 n => wfClCode n
  | .clLen10 n => wfClCode n
  | .clLen11 n => wfClCode n
  | .clLen12 n => wfClCode n
  | .clLen13 n => wfClCode n
  | .clLen14 n => wfClCode n
  | .clLen15 n => wfClCode n
  | .clRep n _ => wfClCode n
  | .clZrep3 n _ => wfClCode n
  | .clZrep11 n _ => wfClCode n
  | .clInvalid n => wfClCode n
  | .lit n _ => wfCode n
  | .eob n => wfCode n
  | .len257 n => wfCode n
  | .len258 n => wfCode n
  | .len259 n => wfCode n
  | .len260 n => wfCode n
  | .len261 n => wfCode n
  | .len262 n => wfCode n
  | .len263 n => wfCode n
  | .len264 n => wfCode n
  | .len265 n => wfCode n
  | .len266 n => wfCode n
  | .len267 n => wfCode n
  | .len268 n => wfCode n
  | .len269 n => wfCode n
  | .len270 n => wfCode n
  | .len271 n => wfCode n
  | .len272 n => wfCode n
  | .len273 n => wfCode n
  | .len274 n => wfCode n
  | .len275 n => wfCode n
  | .len276 n => wfCode n
  | .len277 n => wfCode n
  | .len278 n => wfCode n
  | .len279 n => wfCode n
  | .len280 n => wfCode n
  | .len281 n => wfCode n
  | .len282 n => wfCode n
  | .len283 n => wfCode n
  | .len284 n => wfCode n
  | .len285 n => wfCode n
  | .llReserved286 => true
  | .llReserved287 => true
  | .llInvalid n => wfCode n
  | .dist0 n => wfCode n
  | .dist1 n => wfCode n
  | .dist2 n => wfCode n
  | .dist3 n => wfCode n
  | .dist4 n => wfCode n
  | .dist5 n => wfCode n
  | .dist6 n => wfCode n
  | .dist7 n => wfCode n
  | .dist8 n => wfCode n
  | .dist9 n => wfCode n
  | .dist10 n => wfCode n
  | .dist11 n => wfCode n
  | .dist12 n => wfCode n
  | .dist13 n => wfCode n
  | .dist14 n => wfCode n
  | .dist15 n => wfCode n
  | .dist16 n => wfCode n
  | .dist17 n => wfCode n
  | .dist18 n => wfCode n
  | .dist19 n => wfCode n
  | .dist20 n => wfCode n
  | .dist21 n => wfCode n
  | .dist22 n => wfCode n
  | .dist23 n => wfCode n
  | .dist24 n => wfCode n
  | .dist25 n => wfCode n
  | .dist26 n => wfCode n
  | .dist27 n => wfCode n
  | .dist28 n => wfCode n
  | .dist29 n => wfCode n
  | .dReserved30 => true
  | .dReserved31 => true
  -- R171 (a): the invalid entries of an empty distance table have 0 bits
  | .dInvalid _ => true
  -- R117: a length has 0 to 5 extra bits
  | .lenExtra w x => w.toNat ≤ 5 && x.toNat < 2 ^ w.toNat
  -- R118: a distance has 0 to 13 extra bits
  | .distExtra w x => w.toNat ≤ 13 && x.toNat < 2 ^ w.toNat
  | .tLit _ _ => true
  -- R123: 0x00 is LIT, so a link's width is not 0
  | .tLink w _ _ => 1 ≤ w.toNat
  -- 14 and 15 extra bits included (log 27)
  | .tBase _ _ _ => true
  | .tEob _ _ => true
  -- R123: not one of the tags before INVALID; R171: not the entry `build` writes
  | .tInvalid op n v =>
    2 ≤ op.toNat / 16 && op.toNat != 0x20 && !(op.toNat = 0x40 && 1 ≤ n.toNat && v.toNat = 0)

end Sys2Proof
end

