-- ==== Sys2Proof/Decode.lean ====
section
/-! DEFINITION. The decoder: what the engine reads from the bits (or the table entry) that the decoder state selects, the
encoder after it, and the constant tables both use (R115 to R123). -/

namespace Sys2Proof

/-- `v[lo+n-1 : lo]` as a number (R13). -/
def fieldAt (v lo n : Nat) : Nat := v / 2 ^ lo % 2 ^ n

/-- The length table of R117: base and extra bits of symbol `257 + s`. -/
def lengthTable : List (Nat × Nat) :=
  [(3, 0), (4, 0), (5, 0), (6, 0), (7, 0), (8, 0), (9, 0), (10, 0), (11, 1), (13, 1),
   (15, 1), (17, 1), (19, 2), (23, 2), (27, 2), (31, 2), (35, 3), (43, 3), (51, 3), (59, 3),
   (67, 4), (83, 4), (99, 4), (115, 4), (131, 5), (163, 5), (195, 5), (227, 5), (258, 0)]

/-- The distance table of R118: base and extra bits of symbol `s`. -/
def distanceTable : List (Nat × Nat) :=
  [(1, 0), (2, 0), (3, 0), (4, 0), (5, 1), (7, 1), (9, 2), (13, 2),
   (17, 3), (25, 3), (33, 4), (49, 4), (65, 5), (97, 5), (129, 6), (193, 6),
   (257, 7), (385, 7), (513, 8), (769, 8), (1025, 9), (1537, 9), (2049, 10), (3073, 10),
   (4097, 11), (6145, 11), (8193, 12), (12289, 12), (16385, 13), (24577, 13)]

/-- The order in which code-length-code lengths are sent (R119). -/
def clOrder : List Nat := [16, 17, 18, 0, 8, 7, 9, 6, 10, 5, 11, 4, 12, 3, 13, 2, 14, 1, 15]

/-- The classes of a table entry's operation tag (R123, R174). -/
inductive EntryClass where
  | lit
  | link (w : BitVec 4)
  | base (x : BitVec 4)
  | eob
  | invalid
deriving DecidableEq, Repr

/-- The class of a tag, in the decode order of R123 and R174.  That makes 0x1E and 0x1F BASE, with 14 and 15 extra bits, where
R123's table has them unrecognised: DEDUCED, log 27. -/
def entryClass (op : BitVec 8) : EntryClass :=
  if op.toNat = 0 then .lit
  else if op.toNat / 16 = 1 then .base (BitVec.ofNat 4 (op.toNat % 16))
  else if op.toNat / 16 = 0 then .link (BitVec.ofNat 4 (op.toNat % 16))
  else if op.toNat = 0x20 then .eob
  else .invalid

/-- Which element the decoder state selects: the state alone fixes the format of the next element (R100). -/
inductive Slot where
  | command
  | method
  | flag
  | dict (k : Fin 4)
  | check (k : Fin 4)
  | header
  | align (n : BitVec 3)
  | lens
  | stored
  | table
  | btree
  | dtree
  | len
  | lenext (w : BitVec 4)
  | dist
  | distext (w : BitVec 4)
deriving DecidableEq, Repr

/-- A command code (R101); every other code is rejected by the name `CMD_ILLEGAL`. -/
def decodeCommand (c : Byte) : Instr :=
  match c.toNat with
  | 1 => .init
  | 2 => .reset
  | 3 => .stepCmd
  | 4 => .setDict
  | 5 => .sync
  | 6 => .endCmd
  | _ => .cmdIllegal c

/-- A block header (R109). -/
def decodeHeader (t : Nat) : Instr :=
  match fieldAt t 1 2 with
  | 0 => .blkStored (fieldAt t 0 1 = 1)
  | 1 => .blkFixed (fieldAt t 0 1 = 1)
  | 2 => .blkDynamic (fieldAt t 0 1 = 1)
  | _ => .blkReserved (fieldAt t 0 1 = 1)

/-- A code-length symbol of `n` bits with the accumulator at the code's first bit (R113); `none` beyond 18. -/
def clInstr (c : Nat) (n : BitVec 4) (bits : Nat) : Option Instr :=
  match c with
  | 0 => some (.clLen0 n)
  | 1 => some (.clLen1 n)
  | 2 => some (.clLen2 n)
  | 3 => some (.clLen3 n)
  | 4 => some (.clLen4 n)
  | 5 => some (.clLen5 n)
  | 6 => some (.clLen6 n)
  | 7 => some (.clLen7 n)
  | 8 => some (.clLen8 n)
  | 9 => some (.clLen9 n)
  | 10 => some (.clLen10 n)
  | 11 => some (.clLen11 n)
  | 12 => some (.clLen12 n)
  | 13 => some (.clLen13 n)
  | 14 => some (.clLen14 n)
  | 15 => some (.clLen15 n)
  | 16 => some (.clRep n (BitVec.ofNat 2 (fieldAt bits n.toNat 2)))
  | 17 => some (.clZrep3 n (BitVec.ofNat 3 (fieldAt bits n.toNat 3)))
  | 18 => some (.clZrep11 n (BitVec.ofNat 7 (fieldAt bits n.toNat 7)))
  | _ => none

/-- The length symbol `257 + s` (R115). -/
def lenInstr (s : Nat) (n : BitVec 4) : Option Instr :=
  match s with
  | 0 => some (.len257 n)
  | 1 => some (.len258 n)
  | 2 => some (.len259 n)
  | 3 => some (.len260 n)
  | 4 => some (.len261 n)
  | 5 => some (.len262 n)
  | 6 => some (.len263 n)
  | 7 => some (.len264 n)
  | 8 => some (.len265 n)
  | 9 => some (.len266 n)
  | 10 => some (.len267 n)
  | 11 => some (.len268 n)
  | 12 => some (.len269 n)
  | 13 => some (.len270 n)
  | 14 => some (.len271 n)
  | 15 => some (.len272 n)
  | 16 => some (.len273 n)
  | 17 => some (.len274 n)
  | 18 => some (.len275 n)
  | 19 => some (.len276 n)
  | 20 => some (.len277 n)
  | 21 => some (.len278 n)
  | 22 => some (.len279 n)
  | 23 => some (.len280 n)
  | 24 => some (.len281 n)
  | 25 => some (.len282 n)
  | 26 => some (.len283 n)
  | 27 => some (.len284 n)
  | 28 => some (.len285 n)
  | _ => none

/-- The distance symbol `s` (R116). -/
def distInstr (s : Nat) (n : BitVec 4) : Option Instr :=
  match s with
  | 0 => some (.dist0 n)
  | 1 => some (.dist1 n)
  | 2 => some (.dist2 n)
  | 3 => some (.dist3 n)
  | 4 => some (.dist4 n)
  | 5 => some (.dist5 n)
  | 6 => some (.dist6 n)
  | 7 => some (.dist7 n)
  | 8 => some (.dist8 n)
  | 9 => some (.dist9 n)
  | 10 => some (.dist10 n)
  | 11 => some (.dist11 n)
  | 12 => some (.dist12 n)
  | 13 => some (.dist13 n)
  | 14 => some (.dist14 n)
  | 15 => some (.dist15 n)
  | 16 => some (.dist16 n)
  | 17 => some (.dist17 n)
  | 18 => some (.dist18 n)
  | 19 => some (.dist19 n)
  | 20 => some (.dist20 n)
  | 21 => some (.dist21 n)
  | 22 => some (.dist22 n)
  | 23 => some (.dist23 n)
  | 24 => some (.dist24 n)
  | 25 => some (.dist25 n)
  | 26 => some (.dist26 n)
  | 27 => some (.dist27 n)
  | 28 => some (.dist28 n)
  | 29 => some (.dist29 n)
  | _ => none

/-- The place of a (base, extra bits) row in a table, counted from `i`. -/
def rowIndex (base ext : Nat) : List (Nat × Nat) → Nat → Option Nat
  | [], _ => none
  | r :: rs, i => if r.1 = base ∧ r.2 = ext then some i else rowIndex base ext rs (i + 1)

/-- An entry as the format `TENTRY` alone reads it (R123, R174). -/
def decodeEntry (e : Entry) : Instr :=
  match entryClass e.op with
  | .lit => .tLit e.bits e.val
  | .link w => .tLink w e.bits e.val
  | .base x => .tBase x e.bits e.val
  | .eob => .tEob e.bits e.val
  | .invalid => .tInvalid e.op e.bits e.val

/-- Does the entry have the invalid form `build` writes for a set that is not empty (R171 (b), (d))? -/
def Entry.isInvalid (e : Entry) : Bool := e.op.toNat = 0x40 && 1 ≤ e.bits.toNat && e.val.toNat = 0

/-- The entry `lookup(CT)` returned, as an element of format `CLSYM` (R113, R201 to R205).  What no code-length table holds
reads as its `TENTRY` row. -/
def decodeCl (e : Entry) (bits : Nat) : Instr :=
  match entryClass e.op with
  | .lit => if 1 ≤ e.bits.toNat then (clInstr e.val.toNat e.bits bits).getD (decodeEntry e) else decodeEntry e
  | .invalid => if e.isInvalid then .clInvalid e.bits else decodeEntry e
  | _ => decodeEntry e

/-- The entry `lookup(LT)` returned, as an element of format `LLSYM` (R115, R222 to R227).  The reserved symbols 286 and 287
are known by their fixed codes 11000110 and 11000111, first stream bit lowest (R121). -/
def decodeLl (e : Entry) (bits : Nat) : Instr :=
  match entryClass e.op with
  | .lit => if 1 ≤ e.bits.toNat ∧ e.val.toNat < 256 then .lit e.bits (BitVec.ofNat 8 e.val.toNat) else decodeEntry e
  | .base x =>
    if 1 ≤ e.bits.toNat then
      ((rowIndex e.val.toNat x.toNat lengthTable 0).bind (fun s => lenInstr s e.bits)).getD (decodeEntry e)
    else decodeEntry e
  | .eob => if 1 ≤ e.bits.toNat ∧ e.val.toNat = 0 then .eob e.bits else decodeEntry e
  | .link _ => decodeEntry e
  | .invalid =>
    if e.isInvalid then
      if e.bits.toNat = 8 ∧ fieldAt bits 0 8 = 0x63 then .llReserved286
      else if e.bits.toNat = 8 ∧ fieldAt bits 0 8 = 0xE3 then .llReserved287
      else .llInvalid e.bits
    else decodeEntry e

/-- The entry `lookup(DT)` returned, as an element of format `DSYM` (R116, R229 to R232).  The reserved symbols 30 and 31 are
known by their fixed codes 11110 and 11111, first stream bit lowest (R121). -/
def decodeDist (e : Entry) (bits : Nat) : Instr :=
  match entryClass e.op with
  | .base x =>
    if 1 ≤ e.bits.toNat then
      ((rowIndex e.val.toNat x.toNat distanceTable 0).bind (fun s => distInstr s e.bits)).getD (decodeEntry e)
    else decodeEntry e
  | .invalid =>
    if e.op.toNat = 0x40 ∧ e.val.toNat = 0 then
      if e.bits.toNat = 5 ∧ fieldAt bits 0 5 = 0x0F then .dReserved30
      else if e.bits.toNat = 5 ∧ fieldAt bits 0 5 = 0x1F then .dReserved31
      else .dInvalid e.bits
    else decodeEntry e
  | _ => decodeEntry e

/-- The decoder, total: the instruction that the decoder state `slot` reads.  `bits` is the accumulator (or the byte written
to `CMD`), its bit 0 the element's first bit; `e` is the entry the lookup returned, for the three symbol formats. -/
def decode (slot : Slot) (e : Entry) (bits : Word) : Instr :=
  match slot with
  | .command => decodeCommand (BitVec.ofNat 8 (fieldAt bits.toNat 0 8))
  | .method => .cmf (BitVec.ofNat 8 (fieldAt bits.toNat 0 8))
  | .flag => .flg (BitVec.ofNat 8 (fieldAt bits.toNat 0 8))
  | .dict k => .dictid k (BitVec.ofNat 8 (fieldAt bits.toNat 0 8))
  | .check k => .adler32 k (BitVec.ofNat 8 (fieldAt bits.toNat 0 8))
  | .header => decodeHeader bits.toNat
  | .align n => .align n (BitVec.ofNat 7 (fieldAt bits.toNat 0 n.toNat))
  | .lens => .stlen (BitVec.ofNat 16 (fieldAt bits.toNat 0 16)) (BitVec.ofNat 16 (fieldAt bits.toNat 16 16))
  | .stored => .raw (BitVec.ofNat 8 (fieldAt bits.toNat 0 8))
  | .table =>
    .counts (BitVec.ofNat 5 (fieldAt bits.toNat 0 5)) (BitVec.ofNat 5 (fieldAt bits.toNat 5 5))
      (BitVec.ofNat 4 (fieldAt bits.toNat 10 4))
  | .btree => .cll (BitVec.ofNat 3 (fieldAt bits.toNat 0 3))
  | .dtree => decodeCl e bits.toNat
  | .len => decodeLl e bits.toNat
  | .lenext w => .lenExtra w (BitVec.ofNat 15 (fieldAt bits.toNat 0 w.toNat))
  | .dist => decodeDist e bits.toNat
  | .distext w => .distExtra w (BitVec.ofNat 15 (fieldAt bits.toNat 0 w.toNat))

/-- An encoded instruction: the decoder state that reads it, the table entry (for a symbol) and the stream bits. -/
structure Coded where
  slot  : Slot
  entry : Entry
  bits  : Word
deriving DecidableEq, Repr

/-- An element that is a plain field of stream bits. -/
def codedField (slot : Slot) (v : Nat) : Coded := ⟨slot, Entry.invalid, BitVec.ofNat 32 v⟩

/-- An element that is a table entry. -/
def codedEntry (slot : Slot) (op : Nat) (n : BitVec 4) (val : Nat) (bits : Nat) : Coded :=
  ⟨slot, ⟨BitVec.ofNat 8 op, n, BitVec.ofNat 16 val⟩, BitVec.ofNat 32 bits⟩

/-- BFINAL as a number (R109). -/
def finalBit (b : Bool) : Nat := if b then 1 else 0

/-- The encoder, written from the formats of 30_encoding.md: the entry of a symbol is that of R168. -/
def encode : Instr → Coded
  | .init => codedField .command 0x01
  | .reset => codedField .command 0x02
  | .stepCmd => codedField .command 0x03
  | .setDict => codedField .command 0x04
  | .sync => codedField .command 0x05
  | .endCmd => codedField .command 0x06
  | .cmdIllegal c => codedField .command c.toNat
  | .cmf c => codedField .method c.toNat
  | .flg f => codedField .flag f.toNat
  | .dictid k b => codedField (.dict k) b.toNat
  | .adler32 k b => codedField (.check k) b.toNat
  | .blkStored f => codedField .header (finalBit f)
  | .blkFixed f => codedField .header (finalBit f + 2)
  | .blkDynamic f => codedField .header (finalBit f + 4)
  | .blkReserved f => codedField .header (finalBit f + 6)
  | .align n pad => codedField (.align n) pad.toNat
  | .stlen len nlen => codedField .lens (len.toNat + 2 ^ 16 * nlen.toNat)
  | .raw b => codedField .stored b.toNat
  | .counts hlit hdist hclen => codedField .table (hlit.toNat + 2 ^ 5 * hdist.toNat + 2 ^ 10 * hclen.toNat)
  | .cll l => codedField .btree l.toNat
  | .clLen0 n => codedEntry .dtree 0x00 n 0 0
  | .clLen1 n => codedEntry .dtree 0x00 n 1 0
  | .clLen2 n => codedEntry .dtree 0x00 n 2 0
  | .clLen3 n => codedEntry .dtree 0x00 n 3 0
  | .clLen4 n => codedEntry .dtree 0x00 n 4 0
  | .clLen5 n => codedEntry .dtree 0x00 n 5 0
  | .clLen6 n => codedEntry .dtree 0x00 n 6 0
  | .clLen7 n => codedEntry .dtree 0x00 n 7 0
  | .clLen8 n => codedEntry .dtree 0x00 n 8 0
  | .clLen9 n => codedEntry .dtree 0x00 n 9 0
  | .clLen10 n => codedEntry .dtree 0x00 n 10 0
  | .clLen11 n => codedEntry .dtree 0x00 n 11 0
  | .clLen12 n => codedEntry .dtree 0x00 n 12 0
  | .clLen13 n => codedEntry .dtree 0x00 n 13 0
  | .clLen14 n => codedEntry .dtree 0x00 n 14 0
  | .clLen15 n => codedEntry .dtree 0x00 n 15 0
  | .clRep n x => codedEntry .dtree 0x00 n 16 (x.toNat * 2 ^ n.toNat)
  | .clZrep3 n x => codedEntry .dtree 0x00 n 17 (x.toNat * 2 ^ n.toNat)
  | .clZrep11 n x => codedEntry .dtree 0x00 n 18 (x.toNat * 2 ^ n.toNat)
  | .clInvalid n => codedEntry .dtree 0x40 n 0 0
  | .lit n b => codedEntry .len 0x00 n b.toNat 0
  | .eob n => codedEntry .len 0x20 n 0 0
  | .len257 n => codedEntry .len 0x10 n 3 0
  | .len258 n => codedEntry .len 0x10 n 4 0
  | .len259 n => codedEntry .len 0x10 n 5 0
  | .len260 n => codedEntry .len 0x10 n 6 0
  | .len261 n => codedEntry .len 0x10 n 7 0
  | .len262 n => codedEntry .len 0x10 n 8 0
  | .len263 n => codedEntry .len 0x10 n 9 0
  | .len264 n => codedEntry .len 0x10 n 10 0
  | .len265 n => codedEntry .len 0x11 n 11 0
  | .len266 n => codedEntry .len 0x11 n 13 0
  | .len267 n => codedEntry .len 0x11 n 15 0
  | .len268 n => codedEntry .len 0x11 n 17 0
  | .len269 n => codedEntry .len 0x12 n 19 0
  | .len270 n => codedEntry .len 0x12 n 23 0
  | .len271 n => codedEntry .len 0x12 n 27 0
  | .len272 n => codedEntry .len 0x12 n 31 0
  | .len273 n => codedEntry .len 0x13 n 35 0
  | .len274 n => codedEntry .len 0x13 n 43 0
  | .len275 n => codedEntry .len 0x13 n 51 0
  | .len276 n => codedEntry .len 0x13 n 59 0
  | .len277 n => codedEntry .len 0x14 n 67 0
  | .len278 n => codedEntry .len 0x14 n 83 0
  | .len279 n => codedEntry .len 0x14 n 99 0
  | .len280 n => codedEntry .len 0x14 n 115 0
  | .len281 n => codedEntry .len 0x15 n 131 0
  | .len282 n => codedEntry .len 0x15 n 163 0
  | .len283 n => codedEntry .len 0x15 n 195 0
  | .len284 n => codedEntry .len 0x15 n 227 0
  | .len285 n => codedEntry .len 0x10 n 258 0
  | .llReserved286 => codedEntry .len 0x40 8 0 0x63
  | .llReserved287 => codedEntry .len 0x40 8 0 0xE3
  | .llInvalid n => codedEntry .len 0x40 n 0 0
  | .dist0 n => codedEntry .dist 0x10 n 1 0
  | .dist1 n => codedEntry .dist 0x10 n 2 0
  | .dist2 n => codedEntry .dist 0x10 n 3 0
  | .dist3 n => codedEntry .dist 0x10 n 4 0
  | .dist4 n => codedEntry .dist 0x11 n 5 0
  | .dist5 n => codedEntry .dist 0x11 n 7 0
  | .dist6 n => codedEntry .dist 0x12 n 9 0
  | .dist7 n => codedEntry .dist 0x12 n 13 0
  | .dist8 n => codedEntry .dist 0x13 n 17 0
  | .dist9 n => codedEntry .dist 0x13 n 25 0
  | .dist10 n => codedEntry .dist 0x14 n 33 0
  | .dist11 n => codedEntry .dist 0x14 n 49 0
  | .dist12 n => codedEntry .dist 0x15 n 65 0
  | .dist13 n => codedEntry .dist 0x15 n 97 0
  | .dist14 n => codedEntry .dist 0x16 n 129 0
  | .dist15 n => codedEntry .dist 0x16 n 193 0
  | .dist16 n => codedEntry .dist 0x17 n 257 0
  | .dist17 n => codedEntry .dist 0x17 n 385 0
  | .dist18 n => codedEntry .dist 0x18 n 513 0
  | .dist19 n => codedEntry .dist 0x18 n 769 0
  | .dist20 n => codedEntry .dist 0x19 n 1025 0
  | .dist21 n => codedEntry .dist 0x19 n 1537 0
  | .dist22 n => codedEntry .dist 0x1A n 2049 0
  | .dist23 n => codedEntry .dist 0x1A n 3073 0
  | .dist24 n => codedEntry .dist 0x1B n 4097 0
  | .dist25 n => codedEntry .dist 0x1B n 6145 0
  | .dist26 n => codedEntry .dist 0x1C n 8193 0
  | .dist27 n => codedEntry .dist 0x1C n 12289 0
  | .dist28 n => codedEntry .dist 0x1D n 16385 0
  | .dist29 n => codedEntry .dist 0x1D n 24577 0
  | .dReserved30 => codedEntry .dist 0x40 5 0 0x0F
  | .dReserved31 => codedEntry .dist 0x40 5 0 0x1F
  | .dInvalid n => codedEntry .dist 0x40 n 0 0
  | .lenExtra w x => codedField (.lenext w) x.toNat
  | .distExtra w x => codedField (.distext w) x.toNat
  | .tLit n v => codedEntry .dist 0x00 n v.toNat 0
  | .tLink w n v => codedEntry .len w.toNat n v.toNat 0
  | .tBase x n v => codedEntry .dtree (0x10 + x.toNat) n v.toNat 0
  | .tEob n v => codedEntry .dist 0x20 n v.toNat 0
  | .tInvalid op n v => codedEntry .len op.toNat n v.toNat 0

/-- The number of bits a fixed literal/length code has (R121). -/
def fixedLlBits (s : Nat) : Nat := if s < 144 then 8 else if s < 256 then 9 else if s < 280 then 7 else 8

/-- A literal/length symbol as its fixed code's entry (R121, R168). -/
def decodeLlSymbol (s : Nat) : Option Instr :=
  let n := BitVec.ofNat 4 (fixedLlBits s)
  if s < 256 then some (.lit n (BitVec.ofNat 8 s))
  else if s = 256 then some (.eob n)
  else if s = 286 then some .llReserved286
  else if s = 287 then some .llReserved287
  else lenInstr (s - 257) n

/-- A distance symbol as its fixed code's entry (R121, R168). -/
def decodeDistSymbol (s : Nat) : Option Instr :=
  if s = 30 then some .dReserved30 else if s = 31 then some .dReserved31 else distInstr s 5

/-- The instruction a word of the opcode table stands for.  The table numbers the words of its nine formats from bit 0 alike
and a word does not say which format it has (R129: the decoder state says it), so ONE order is fixed here (log 9).  In 16 bits:
a literal/length symbol from 256 on, a command code, a distance symbol from 18 on, the low nibble of CMF, else a literal.
In 8 bits: a code-length symbol (its code 1 bit), else a distance symbol, else a table entry's tag.  In 32 bits: the stored
length field. -/
def decodeTableWord (nbits w : Nat) : Option Instr :=
  if 2 ^ nbits ≤ w then none
  else if nbits = 32 then some (decode .lens Entry.invalid (BitVec.ofNat 32 w))
  else if nbits = 16 then
    if 512 ≤ w then none
    else if 256 ≤ w then decodeLlSymbol (w % 512)
    else if 1 ≤ w ∧ w ≤ 6 then some (decode .command Entry.invalid (BitVec.ofNat 32 w))
    else if 18 ≤ w ∧ w ≤ 29 then decodeDistSymbol w
    else if w % 16 = 8 then some (decode .method Entry.invalid (BitVec.ofNat 32 w))
    else decodeLlSymbol w
  else if nbits = 8 then
    if w ≤ 18 then some (decode .dtree ⟨0x00, 1, BitVec.ofNat 16 w⟩ 0)
    else if w ≤ 31 then decodeDistSymbol w
    else some (decodeEntry ⟨BitVec.ofNat 8 w, 0, 0⟩)
  else none

end Sys2Proof
end

