-- ==== Sys2Proof/Config.lean ====
section
/-! DEFINITION. The implementation parameters of rule R12, and the one free value the spec leaves open. -/

namespace Sys2Proof.Config

/-- Least legal window bits (R12). -/
def wbitsMin : Nat := 8
/-- Greatest legal window bits (R12). -/
def wbitsMax : Nat := 15
/-- Width in bits of the pointer registers, `PTR_W` (R12, D23). -/
def ptrW : Nat := 32
/-- Direct-lookup bits of the literal/length table, `LROOT` (R12, D11). -/
def lroot : Nat := 9
/-- Direct-lookup bits of a dynamic distance table, `DROOT` (R12, D11). -/
def droot : Nat := 6
/-- Direct-lookup bits of the fixed distance table, `FDROOT` (R12, D11). -/
def fdroot : Nat := 5
/-- Direct-lookup bits of the code-length table, `CLROOT` (R12, D11). -/
def clroot : Nat := 7

/-- The value a host read returns where the spec says it is unspecified: register `CMD` (R22) and the reserved register
numbers 0x0E to 0xFF (R21).  The argument is the counter `State.freeCount`, so every such read is a new free value.
It has no body: nothing can be proved about a value of it (log 3). -/
opaque freeHostRead : Nat → BitVec 64

end Sys2Proof.Config
end

