-- ==== Sys2Proof/Machine/State.lean ====
section
/-! DEFINITION. The state of one engine instance and of the host's side of it, as plain data (10_state.md), why a step can
stop, and the state right after hardware reset (R370, R371). -/

namespace Sys2Proof.Machine

/-- A memory: the (address, byte) pairs in rising order of address, one pair an address. -/
abbrev Memory := List Host.Cell

/-- The registers `MODE` can hold (R35). -/
inductive Mode where
  | method | flag | dict4 | dict3 | dict2 | dict1 | dict0 | blocks | check4 | check3 | check2 | check1 | done | bad
deriving DecidableEq, Repr

/-- The sub-states of the block parser, register `BMODE` (R44). -/
inductive BMode where
  | type | lens | stored | table | btree | dtree | codes | dry | bdone | bbad
deriving DecidableEq, Repr

/-- The states of the symbol engine, register `CMODE` (R54). -/
inductive CMode where
  | start | len | lenext | dist | distext | copy | lit | wash | blockEnd | badcode
deriving DecidableEq, Repr

/-- The three host memory spaces (R70). -/
inductive Space where
  | input | output | dictionary
deriving DecidableEq, Repr

/-- One move of the host (R8, R86, R376): write a register by its number, read one, store a byte in one of its memory
spaces, or pull the reset input (R370).  A register is written with its low bits. -/
inductive HostMove where
  | writeReg (reg : BitVec 8) (v : BitVec 64)
  | readReg (reg : BitVec 8)
  | poke (space : Space) (addr : Word) (b : Byte)
  | hardReset
deriving DecidableEq, Repr

/-- What the host's loop of R376 does next: boot, or answer the status of the command it waits for; `over` when it has ended. -/
inductive LoopStage where
  | boot | init | step | setDict | sync | over
deriving DecidableEq, Repr

/-- The host's loop of R376 as plain data: where it stands, and what the host of this run has to give.  A slice is an address
and a length. -/
structure HostLoop where
  /-- What the loop does next. -/
  stage : LoopStage
  /-- `window_bits`, the argument of INIT. -/
  windowBits : Byte
  /-- `flush_mode`, the argument of every STEP. -/
  flushMode : Byte
  /-- The input slices still to be supplied, the next one first. -/
  inputs : List (Word × Word)
  /-- The output slices still to be supplied, the next one first. -/
  outputs : List (Word × Word)
  /-- The dictionary slice for NEED_DICT, if the host has one. -/
  dict : Option (Word × Word)
  /-- On DATA_ERROR: SYNC (true) or END (false). -/
  resync : Bool
  /-- On STREAM_END: RESET for the next stream (true) or END (false). -/
  again : Bool
  /-- The address from which delivered output has not been taken yet. -/
  outFrom : Word
  /-- The output taken so far. -/
  taken : List Byte
deriving DecidableEq, Repr

/-- Why a step stops. -/
inductive Fault where
  /-- Raised by a pull (R141) and by the SYNC scan (R300) when the input slice's next address holds no byte: the host bound a
  slice that is not readable memory, "a host violation with no defined result" (R92, U7).  Safe: the model stops. -/
  | inputUnreadable (addr : Nat)
  /-- Raised by SET_DICT (R297) when an address of the dictionary slice holds no byte (R92, U7).  Safe: the model stops. -/
  | dictUnreadable (addr : Nat)
  /-- Raised by a micro-step of `MODE = BLOCKS` with `BMODE = BBAD` or `CMODE = BADCODE`, which the spec says is never
  dispatched (R210, R238).  Safe: the model stops. -/
  | neverDispatched
deriving DecidableEq, Repr

/-- Why an instruction is refused. -/
inductive Refusal where
  /-- An instruction with no meaning in the model yet.  No arm of exec answers it.  Safe. -/
  | notModelled (mnemonic : String)
deriving DecidableEq, Repr

/-- The state.  Each register has the width of 10_state.md. -/
structure State where
  /-- `CMD` between the host's write and the start of the command; it holds nothing else (R22). -/
  cmd : Option Byte
  /-- `ARG` (R23). -/
  arg : Byte
  /-- `STATUS.BUSY` (R24). -/
  busy : Bool
  /-- `STATUS.CODE`, two's complement (R24). -/
  code : Byte
  /-- `MSG` (R25). -/
  msg : Byte
  /-- `NEXT_IN` (R26). -/
  nextIn : Word
  /-- `IN_BOUND` (R26). -/
  inBound : Bool
  /-- `AVAIL_IN` (R27). -/
  availIn : Word
  /-- `NEXT_OUT` (R28). -/
  nextOut : Word
  /-- `OUT_BOUND` (R28). -/
  outBound : Bool
  /-- `AVAIL_OUT` (R29). -/
  availOut : Word
  /-- `TOTAL_IN` (R30). -/
  totalIn : BitVec 64
  /-- `TOTAL_OUT` (R31). -/
  totalOut : BitVec 64
  /-- `ADLER` (R32). -/
  adler : Word
  /-- `DICT_PTR` (R33). -/
  dictPtr : Word
  /-- `DICT_LEN` (R33). -/
  dictLen : Word
  /-- `OWN` (R34). -/
  own : Bool
  /-- `MODE` (R35). -/
  mode : Mode
  /-- `NOWRAP` (R36). -/
  nowrap : Bool
  /-- `WBITS_CFG` (R37). -/
  wbitsCfg : BitVec 4
  /-- `WBITS` (R37). -/
  wbits : BitVec 4
  /-- `METHODR` (R38). -/
  methodr : Byte
  /-- `NEEDW`, also the host's `DICTID` (R33, R39). -/
  needw : Word
  /-- `WASW` (R39). -/
  wasw : Word
  /-- `MARKER` (R40). -/
  marker : BitVec 3
  /-- `FLUSHR` (R41). -/
  flushr : Byte
  /-- `BITB`, the bit accumulator (R42). -/
  bitb : Word
  /-- `BITK`, its count of valid bits (R43). -/
  bitk : BitVec 6
  /-- `BMODE` (R44). -/
  bmode : BMode
  /-- `LAST` (R45). -/
  last : Bool
  /-- `LEFT` (R46). -/
  left : BitVec 16
  /-- `NLEN` (R47). -/
  nlen : BitVec 9
  /-- `NDIST` (R47). -/
  ndist : BitVec 5
  /-- `NCLEN` (R47). -/
  nclen : BitVec 5
  /-- `INDEX` (R48). -/
  index : BitVec 9
  /-- `CLLENS[0..18]` (R49). -/
  cllens : Vector (BitVec 3) 19
  /-- `LENS[0..315]` (R50). -/
  lens : Vector (BitVec 4) 316
  /-- `LT` (R51). -/
  lt : List Entry
  /-- `DT` (R51). -/
  dt : List Entry
  /-- `CT` (R51). -/
  ct : List Entry
  /-- `LBITS` (R52). -/
  lbits : BitVec 4
  /-- `DBITS` (R52). -/
  dbits : BitVec 4
  /-- `CMODE` (R54). -/
  cmode : CMode
  /-- `TPTR` (R55). -/
  tptr : BitVec 16
  /-- `TNEED` (R55). -/
  tneed : BitVec 4
  /-- `LITV` (R56). -/
  litv : Byte
  /-- `LENR` (R57). -/
  lenr : BitVec 9
  /-- `EXT` (R58). -/
  ext : BitVec 4
  /-- `DISTR` (R59). -/
  distr : BitVec 16
  /-- `WIN`, the window RAM; an unlisted location reads as 0 (R60; log 2). -/
  win : Memory
  /-- `WR` (R61). -/
  wr : BitVec 15
  /-- `RD` (R61). -/
  rd : BitVec 15
  /-- `PEND` (R62). -/
  pend : BitVec 16
  /-- `WHAVE` (R63). -/
  whave : BitVec 16
  /-- Space `IN` of host memory; an unlisted address holds no byte (R70; log 5). -/
  memIn : Memory
  /-- Space `OUT` of host memory (R70). -/
  memOut : Memory
  /-- Space `DICT` of host memory (R70). -/
  memDict : Memory
  /-- `AVAIL_IN` as it was when the running STEP began, which the progress rule compares with (R302). -/
  entryIn : Word
  /-- `AVAIL_OUT` as it was when the running STEP began (R302). -/
  entryOut : Word
  /-- The moves the host has still to make, the next one first (R8, R376; log 6). -/
  host : List HostMove
  /-- The host's loop, which makes the moves when the list has none left; `none` for a host that only has the list (R376; log 26). -/
  loop : Option HostLoop
  /-- What the host's last register read returned (R21; log 6). -/
  hostData : BitVec 64
  /-- The model's own: how many free values have been drawn (log 3). -/
  freeCount : Nat
deriving DecidableEq, Repr

/-- The state after hardware reset: `OWN = 0` and `STATUS.BUSY = 0` as R370 says; every other register and RAM is unspecified
(R371) and holds zero here (log 1). -/
def State.reset : State where
  cmd := none
  arg := 0
  busy := false
  code := 0
  msg := 0
  nextIn := 0
  inBound := false
  availIn := 0
  nextOut := 0
  outBound := false
  availOut := 0
  totalIn := 0
  totalOut := 0
  adler := 0
  dictPtr := 0
  dictLen := 0
  own := false
  mode := .method
  nowrap := false
  wbitsCfg := 0
  wbits := 0
  methodr := 0
  needw := 0
  wasw := 0
  marker := 0
  flushr := 0
  bitb := 0
  bitk := 0
  bmode := .type
  last := false
  left := 0
  nlen := 0
  ndist := 0
  nclen := 0
  index := 0
  cllens := Vector.replicate 19 0
  lens := Vector.replicate 316 0
  lt := []
  dt := []
  ct := []
  lbits := 0
  dbits := 0
  cmode := .start
  tptr := 0
  tneed := 0
  litv := 0
  lenr := 0
  ext := 0
  distr := 0
  win := []
  wr := 0
  rd := 0
  pend := 0
  whave := 0
  memIn := []
  memOut := []
  memDict := []
  entryIn := 0
  entryOut := 0
  host := []
  loop := none
  hostData := 0
  freeCount := 0

end Sys2Proof.Machine
end

