-- ==== Sys2Proof/Machine/Flags.lean ====
section
/-! DEFINITION. The status codes (R330), the binary encodings of the three state registers (R35, R44, R54), the STATUS register
as one word (R24), the message texts (R332), and the single-bit conditions the rules read (R68). -/

namespace Sys2Proof.Machine

/-- The seven status codes (R330). -/
inductive Status where
  | ok | streamEnd | needDict | streamError | dataError | memError | bufError
deriving DecidableEq, Repr

/-- The value of a status code in `STATUS.CODE`, two's complement in 8 bits (R24, R330). -/
def statusCode : Status → Byte
  | .ok => 0
  | .streamEnd => 1
  | .needDict => 2
  | .streamError => BitVec.ofInt 8 (-2)
  | .dataError => BitVec.ofInt 8 (-3)
  | .memError => BitVec.ofInt 8 (-4)
  | .bufError => BitVec.ofInt 8 (-5)

/-- `STATUS`, 9 bits: `BUSY` at bit 8, `CODE` below it (R24). -/
def statusWord (s : State) : BitVec 9 := BitVec.ofBool s.busy ++ s.code

/-- The number of a mode in the 4-bit register `MODE` (R35). -/
def modeNumber : Mode → Nat
  | .method => 0 | .flag => 1 | .dict4 => 2 | .dict3 => 3 | .dict2 => 4 | .dict1 => 5 | .dict0 => 6
  | .blocks => 7 | .check4 => 8 | .check3 => 9 | .check2 => 10 | .check1 => 11 | .done => 12 | .bad => 13

/-- The number of a block parser state in the 4-bit register `BMODE` (R44). -/
def bmodeNumber : BMode → Nat
  | .type => 0 | .lens => 1 | .stored => 2 | .table => 3 | .btree => 4 | .dtree => 5 | .codes => 6
  | .dry => 7 | .bdone => 8 | .bbad => 9

/-- The number of a symbol engine state in the 4-bit register `CMODE` (R54). -/
def cmodeNumber : CMode → Nat
  | .start => 0 | .len => 1 | .lenext => 2 | .dist => 3 | .distext => 4 | .copy => 5 | .lit => 6
  | .wash => 7 | .blockEnd => 8 | .badcode => 9

/-- The text of a message id (R332); only the id is normative (U24). -/
def messageText (id : Byte) : String :=
  match id.toNat with
  | 1 => "unknown compression method"
  | 2 => "invalid window size"
  | 3 => "incorrect header check"
  | 4 => "invalid block type"
  | 5 => "invalid stored block lengths"
  | 6 => "too many length or distance symbols"
  | 7 => "invalid code lengths set"
  | 8 => "invalid bit length repeat"
  | 9 => "invalid literal/lengths set"
  | 10 => "invalid distances set"
  | 11 => "invalid literal/length code"
  | 12 => "invalid distance code"
  | 13 => "invalid distance too far back"
  | 14 => "incorrect data check"
  | 15 => "invalid code length code"
  | _ => ""

/-- Does the input slice wrap (R289)? -/
def inWraps (s : State) : Bool := 2 ^ Config.ptrW < s.nextIn.toNat + s.availIn.toNat

/-- Does the output slice wrap (R289)? -/
def outWraps (s : State) : Bool := 2 ^ Config.ptrW < s.nextOut.toNat + s.availOut.toNat

/-- Does the dictionary slice wrap (R289)? -/
def dictWraps (s : State) : Bool := 2 ^ Config.ptrW < s.dictPtr.toNat + s.dictLen.toNat

/-- A legal `flush_mode` (R103). -/
def flushModeLegal (a : Byte) : Bool := a.toNat = 0 || a.toNat = 2 || a.toNat = 4

/-- Has the running STEP pulled an input byte or delivered an output byte (R302)? -/
def progressed (s : State) : Bool := s.availIn != s.entryIn || s.availOut != s.entryOut

end Sys2Proof.Machine
end

