-- ==== Sys2Proof/Machine/Ops.lean ====
section
/-! DEFINITION. The named operations over memory and registers: the memories, the Adler-32 unit (45_adler32.md), the bit reader
(40_bit_reader.md), the window (44_window.md), the resets, the end of a STEP, and the fatal-error primitive (R331), which is
this hardware's taking of an exception. -/

namespace Sys2Proof.Machine

/-! ### Memories -/

/-- The canonical form of a memory: addresses strictly rising. -/
def Memory.wf : Memory → Bool
  | [] => true
  | [_] => true
  | c :: d :: r => c.1 < d.1 && Memory.wf (d :: r)

/-- The byte at an address, if the memory lists one. -/
def Memory.read : Memory → Nat → Option Byte
  | [], _ => none
  | (k, v) :: r, a => if k = a then some v else Memory.read r a

/-- Store a byte. -/
def Memory.write : Memory → Nat → Byte → Memory
  | [], a, b => [(a, b)]
  | (k, v) :: r, a, b =>
    if a < k then (a, b) :: (k, v) :: r
    else if a = k then (a, b) :: r
    else (k, v) :: Memory.write r a b

/-- Take an address out of the list. -/
def Memory.erase : Memory → Nat → Memory
  | [], _ => []
  | (k, v) :: r, a => if k = a then r else (k, v) :: Memory.erase r a

/-- A location of the window RAM: an unlisted one reads as 0 (R60; log 2). -/
def winAt (m : Memory) (i : Nat) : Byte := (m.read i).getD 0

/-- Store in the window RAM, keeping the form: no entry is 0. -/
def winStore (m : Memory) (i : Nat) (b : Byte) : Memory := if b = 0 then m.erase i else m.write i b

/-- The canonical form of the window RAM: rising addresses below `WIN_CAP`, no entry equal to the 0 an unlisted one reads as. -/
def winWf (m : Memory) : Bool := m.wf && m.all (fun c => c.1 < 32768 && c.2 != 0)

/-! ### Adler-32 -/

/-- `adler_step` (R271). -/
def adlerStep (a : Word) (b : Byte) : Word :=
  let s1 := (a.toNat % 2 ^ 16 + b.toNat) % 65521
  let s2 := (a.toNat / 2 ^ 16 + s1) % 65521
  BitVec.ofNat 32 (s2 * 2 ^ 16 + s1)

/-- The Adler-32 of a byte sequence continued from `a` (R272: from 1 for a whole sequence). -/
def adlerOf (a : Word) : List Byte → Word
  | [] => a
  | b :: r => adlerOf (adlerStep a b) r

/-! ### Micro-step results -/

/-- The reasons a micro-step stops with (R9). -/
inductive Stop where
  | needIn | needOut | dict | finished | err
deriving DecidableEq, Repr

/-- What an operation that may stop answers. -/
inductive Got (α : Type) where
  | ok (a : α) (s : State)
  | stop (r : Stop) (s : State)
  | fault (f : Fault)
deriving Repr

/-- Go on with the answer, unless it is a stop or a fault. -/
def Got.bind {α β : Type} (g : Got α) (k : α → State → Got β) : Got β :=
  match g with
  | .ok a s => k a s
  | .stop r s => .stop r s
  | .fault f => .fault f

/-! ### The bit reader -/

/-- Move the input cursor past one byte (R26, R27, R30).  After the byte at the last address the cursor is 0: DESIGN CHOICE,
log 25. -/
def advanceIn (s : State) : State :=
  { s with nextIn := s.nextIn + 1, availIn := s.availIn - 1, totalIn := s.totalIn + 1 }

/-- The accumulator with one more byte above the bits held (R141, R76). -/
def accept (b : Byte) (s : State) : State :=
  { s with bitb := s.bitb ||| (b.setWidth 32 <<< s.bitk.toNat), bitk := s.bitk + 8 }

/-- `pull()` (R141). -/
def pull (s : State) : Got Unit :=
  if s.availIn = 0 then .stop .needIn s
  else
    match s.memIn.read s.nextIn.toNat with
    | none => .fault (.inputUnreadable s.nextIn.toNat)
    | some b => .ok () (advanceIn (accept b s))

/-- `k` pulls. -/
def pulls : Nat → State → Got Unit
  | 0, s => .ok () s
  | k + 1, s => (pull s).bind (fun _ t => pulls k t)

/-- `need_bits(n)` (R142): the fewest pulls that reach `n` bits. -/
def needBits (n : Nat) (s : State) : Got Unit := pulls ((n - s.bitk.toNat + 7) / 8) s

/-- `consume(n)` (R143). -/
def consume (n : Nat) (s : State) : State :=
  { s with bitb := s.bitb >>> n, bitk := s.bitk - BitVec.ofNat 6 n }

/-- `peek(n)` (R144), as a number. -/
def peek (n : Nat) (s : State) : Nat := fieldAt s.bitb.toNat 0 n

/-- `align()` (R146). -/
def alignBits (s : State) : State := consume (s.bitk.toNat % 8) s

/-- `lookup(T, base, width)` (R176): at most two pulls, so three readings of the table. -/
def lookupLoop : Nat → List Entry → Nat → Nat → State → Got Entry
  | 0, t, base, width, s => .ok (t.getD (base + peek width s) Entry.invalid) s
  | k + 1, t, base, width, s =>
    let e := t.getD (base + peek width s) Entry.invalid
    if e.bits.toNat ≤ s.bitk.toNat then .ok e s
    else (pull s).bind (fun _ u => lookupLoop k t base width u)

/-- `lookup` (R176). -/
def lookup (t : List Entry) (base width : Nat) (s : State) : Got Entry := lookupLoop 2 t base width s

/-! ### The window -/

/-- `WSIZE = 2^WBITS` (R37, R251). -/
def wsize (s : State) : Nat := 2 ^ s.wbits.toNat

/-- `win_write(b)` (R252). -/
def winWrite (b : Byte) (s : State) : State :=
  { s with
    win := winStore s.win s.wr.toNat b
    wr := BitVec.ofNat 15 ((s.wr.toNat + 1) % wsize s)
    pend := s.pend + 1
    whave := BitVec.ofNat 16 (min (s.whave.toNat + 1) (wsize s)) }

/-- The window index `(WR - d) mod WSIZE` (R74, R254). -/
def backIndex (d : Nat) (s : State) : Nat := (s.wr.toNat + (wsize s - d % wsize s)) % wsize s

/-- `win_read(d)` (R254). -/
def winRead (d : Nat) (s : State) : Byte := winAt s.win (backIndex d s)

/-- One byte of `flush()`: the byte at `RD` goes to the output slice (R255).  After the byte at the last address `NEXT_OUT` is
0: DESIGN CHOICE, log 25. -/
def deliver (s : State) : State :=
  let b := winAt s.win s.rd.toNat
  { s with
    memOut := s.memOut.write s.nextOut.toNat b
    adler := adlerStep s.adler b
    rd := BitVec.ofNat 15 ((s.rd.toNat + 1) % wsize s)
    nextOut := s.nextOut + 1
    availOut := s.availOut - 1
    totalOut := s.totalOut + 1
    pend := s.pend - 1 }

/-- `k` bytes of `flush()`. -/
def deliverN : Nat → State → State
  | 0, s => s
  | k + 1, s => deliverN k (deliver s)

/-- `flush()` (R255). -/
def flush (s : State) : State := deliverN (min s.pend.toNat s.availOut.toNat) s

/-- `room()` (R253). -/
def room (s : State) : Got Unit :=
  if s.pend.toNat = wsize s then
    let t := flush s
    if t.pend.toNat = wsize t then .stop .needOut t else .ok () t
  else .ok () s

/-- `reset_window()` (R256). -/
def resetWindow (s : State) : State := { s with wr := 0, rd := 0, pend := 0, whave := 0 }

/-- Store a byte sequence in the window RAM from index `i` on. -/
def winFill (m : Memory) : Nat → List Byte → Memory
  | _, [] => m
  | i, b :: r => winFill (winStore m i b) (i + 1) r

/-- `load_dict(P, n)` (R257), `bytes` being the dictionary slice: its last `WSIZE` bytes. -/
def loadDict (bytes : List Byte) (s : State) : State :=
  let m := min bytes.length (wsize s)
  { s with
    win := winFill s.win 0 (bytes.drop (bytes.length - m))
    wr := BitVec.ofNat 15 (m % wsize s)
    rd := BitVec.ofNat 15 (m % wsize s)
    pend := 0
    whave := BitVec.ofNat 16 m }

/-! ### Resets, the end of a command, fatal errors -/

/-- `reset_state()` (R284). -/
def resetState (s : State) : State :=
  resetWindow
    { s with
      totalIn := 0, totalOut := 0, msg := 0, adler := 1
      mode := if s.nowrap then .blocks else .method
      wbits := s.wbitsCfg
      marker := 0, needw := 0, wasw := 0, methodr := 0, flushr := 0
      bitb := 0, bitk := 0
      bmode := .type, last := false, left := 0, index := 0
      cmode := .start }

/-- Write the return code of a command (R24). -/
def ret (c : Status) (s : State) : State := { s with code := statusCode c }

/-- The status of a STEP from its stop reason (R301). -/
def stepStatus (r : Stop) (s : State) : Status :=
  match r with
  | .finished => .streamEnd
  | .err => .dataError
  | .dict => .needDict
  | .needIn => if progressed s then .ok else .bufError
  | .needOut => if progressed s then .ok else .bufError

/-- End a STEP: the closing `flush()`, the status, and `BUSY <- 0` (R22, R290, R301). -/
def finish (r : Stop) (s : State) : State :=
  let t := flush s
  { ret (stepStatus r t) t with busy := false }

/-- `raise E(id)` (R18, R331): taking a fatal error, which is this hardware's exception.  `MSG` saves the cause, `MODE`
becomes `BAD`, `MARKER` is cleared, and the STEP stops with `ERR`.  The sub-state writes of the raising rule are made
before. -/
def raise (id : Nat) (s : State) : State :=
  finish .err { s with msg := BitVec.ofNat 8 id, mode := .bad, marker := 0 }

/-- `raise E(id) with BMODE <- BBAD` (R331). -/
def raiseBlock (id : Nat) (s : State) : State := raise id { s with bmode := .bbad }

/-- `raise E(id) with CMODE <- BADCODE, BMODE <- BBAD` (R331). -/
def raiseCodes (id : Nat) (s : State) : State := raise id { s with cmode := .badcode, bmode := .bbad }

/-- The way back from `MODE = BAD` that SYNC takes when it has the marker (R300, R355): the reset with the totals kept, and
`MODE <- BLOCKS` in both wrapper modes. -/
def returnFromBad (s : State) : State :=
  { resetState s with totalIn := s.totalIn, totalOut := s.totalOut, mode := .blocks }

/-- The block parser's state after a block: `DRY` after the last one, else `TYPE` (R196, R197, R237). -/
def afterBlock (s : State) : BMode := if s.last then .dry else .type

/-- Answer what an operation that may stop leads to: a stop ends the STEP (R9, R290). -/
def settle {α : Type} (g : Got α) (k : α → State → Host.Outcome State Fault Refusal) : Host.Outcome State Fault Refusal :=
  match g with
  | .ok a s => k a s
  | .stop r s => .next (finish r s)
  | .fault f => .fault f

end Sys2Proof.Machine
end

