-- ==== Sys2Proof/Machine/Operands.lean ====
section
/-! DEFINITION. The Huffman table builder (41_huffman_tables.md): from a code-length set to a table of entries. -/

namespace Sys2Proof.Machine

/-- The alphabets a table is built for (R161). -/
inductive Kind where
  | ll | d | cl
deriving DecidableEq, Repr

/-- `rev(c, n)` (R13): the `n`-bit value `c` with its bit order reversed. -/
def rev (c : Nat) : Nat → Nat
  | 0 => 0
  | n + 1 => c % 2 * 2 ^ n + rev (c / 2) n

/-- `count[b]` for `b >= 1`, and 0 for `b = 0` (R122, R162). -/
def lenCount (lens : List Nat) (b : Nat) : Nat := if b = 0 then 0 else lens.count b

/-- `left_b` (R163). -/
def leftAt (lens : List Nat) : Nat → Int
  | 0 => 1
  | b + 1 => 2 * leftAt lens b - lenCount lens (b + 1)

/-- `total` (R162). -/
def usedTotal (lens : List Nat) : Nat := ((List.range 16).map (lenCount lens)).sum

/-- Is the set over-subscribed (R163)? -/
def overSubscribed (lens : List Nat) : Bool := (List.range 16).any (fun b => leftAt lens b < 0)

/-- Is the set incomplete in a way that is not permitted (R164)? -/
def forbiddenIncomplete (lens : List Nat) : Bool :=
  0 < leftAt lens 15 && !(usedTotal lens = 1 && lenCount lens 1 = 1)

/-- The first code of length `b`, `next[b]` before any symbol is assigned (R122). -/
def firstCode (lens : List Nat) : Nat → Nat
  | 0 => 0
  | b + 1 => 2 * (firstCode lens b + lenCount lens b)

/-- A used symbol: its number, its code length, and its code as a table index, first stream bit lowest (R167). -/
structure Used where
  sym  : Nat
  len  : Nat
  rcode : Nat
deriving DecidableEq, Repr

/-- Assign the codes in increasing symbol order (R122, R167): `next` holds the next code of each length. -/
def assignCodes : List Nat → Nat → List Nat → List Used
  | [], _, _ => []
  | l :: r, s, next =>
    if l = 0 then assignCodes r (s + 1) next
    else ⟨s, l, rev (next.getD l 0) l⟩ :: assignCodes r (s + 1) (next.set l (next.getD l 0 + 1))

/-- Every used symbol with its code (R167). -/
def usedCodes (lens : List Nat) : List Used :=
  assignCodes lens 0 ((List.range 16).map (firstCode lens))

/-- Symbol to entry (R168).  A literal/length symbol above 287 and a distance symbol above 31 are invalid like the reserved ones,
and a code-length symbol above 18 is a LIT entry (no run has them): DESIGN CHOICE, log 29. -/
def symbolEntry (kind : Kind) (s b : Nat) : Entry :=
  match kind with
  | .ll =>
    if s < 256 then ⟨0x00, BitVec.ofNat 4 b, BitVec.ofNat 16 s⟩
    else if s = 256 then ⟨0x20, BitVec.ofNat 4 b, 0⟩
    else
      match lengthTable[s - 257]? with
      | some r => ⟨BitVec.ofNat 8 (0x10 + r.2), BitVec.ofNat 4 b, BitVec.ofNat 16 r.1⟩
      | none => ⟨0x40, BitVec.ofNat 4 b, 0⟩
  | .d =>
    match distanceTable[s]? with
    | some r => ⟨BitVec.ofNat 8 (0x10 + r.2), BitVec.ofNat 4 b, BitVec.ofNat 16 r.1⟩
    | none => ⟨0x40, BitVec.ofNat 4 b, 0⟩
  | .cl => ⟨0x00, BitVec.ofNat 4 b, BitVec.ofNat 16 s⟩

/-- The entry a level's index `i` gets from the codes of that level, `l` bits each after `skip` bits were dropped (R169,
R170); what no code reaches is invalid with 1 bit (R171). -/
def levelEntry (kind : Kind) (us : List Used) (skip i : Nat) : Entry :=
  match us.find? (fun u => i % 2 ^ (u.len - skip) = u.rcode / 2 ^ skip) with
  | some u => symbolEntry kind u.sym (u.len - skip)
  | none => ⟨0x40, 1, 0⟩

/-- A sub-table: its root prefix, its index width, its offset (R170). -/
structure Sub where
  pre : Nat
  width : Nat
  base : Nat
deriving DecidableEq, Repr

/-- The codes longer than the root width that begin with the root prefix `p` (R170). -/
def longer (us : List Used) (root p : Nat) : List Used :=
  us.filter (fun u => root < u.len && u.rcode % 2 ^ root = p)

/-- The sub-tables of the prefixes, in their order, the first at offset `base` (R170). -/
def placeSubs (us : List Used) (root : Nat) : List Nat → Nat → List Sub
  | [], _ => []
  | p :: r, base =>
    let w := ((longer us root p).map (fun u => u.len - root)).foldl max 0
    ⟨p, w, base⟩ :: placeSubs us root r (base + 2 ^ w)

/-- Every sub-table: prefixes in the numeric order of the codes' leading bits (R170). -/
def subTables (us : List Used) (root : Nat) : List Sub :=
  let long := us.filter (fun u => root < u.len)
  placeSubs us root
    (((List.range (2 ^ root)).map (fun q => rev q root)).filter (fun p => long.any (fun u => u.rcode % 2 ^ root = p)))
    (2 ^ root)

/-- The root entry at index `i` (R169, R170). -/
def rootEntry (kind : Kind) (us : List Used) (subs : List Sub) (root i : Nat) : Entry :=
  match subs.find? (fun t => t.pre = i) with
  | some t => ⟨BitVec.ofNat 8 t.width, BitVec.ofNat 4 root, BitVec.ofNat 16 t.base⟩
  | none => levelEntry kind (us.filter (fun u => u.len ≤ root)) 0 i

/-- The table of an accepted set: the root level, then the sub-tables (R166). -/
def tableOf (lens : List Nat) (root : Nat) (kind : Kind) : List Entry :=
  let us := usedCodes lens
  let subs := subTables us root
  (List.range (2 ^ root)).map (rootEntry kind us subs root) ++
    (subs.map (fun t => (List.range (2 ^ t.width)).map (levelEntry kind (longer us root t.pre) root))).flatten

/-- The results of `build` (R161). -/
inductive BuildResult where
  | ok (t : List Entry)
  | empty (t : List Entry)
  | over
  | incomplete
deriving DecidableEq, Repr

/-- `build(lens, n, R, kind)` (R166), `n` being the length of the list. -/
def build (lens : List Nat) (root : Nat) (kind : Kind) : BuildResult :=
  if usedTotal lens = 0 then .empty (List.replicate (2 ^ root) Entry.invalid)
  else if overSubscribed lens then .over
  else if forbiddenIncomplete lens then .incomplete
  else .ok (tableOf lens root kind)

/-- The fixed literal/length code lengths (R121, R173). -/
def fixedLlLens : List Nat :=
  List.replicate 144 8 ++ List.replicate 112 9 ++ List.replicate 24 7 ++ List.replicate 8 8

/-- `FIXED_LT` (R53, R173). -/
def fixedLt : List Entry := tableOf fixedLlLens Config.lroot .ll

/-- `FIXED_DT` (R53, R173). -/
def fixedDt : List Entry := tableOf (List.replicate 32 5) Config.fdroot .d

/-- The code lengths of the code-length alphabet as numbers (R200). -/
def clLens (s : State) : List Nat := s.cllens.toList.map BitVec.toNat

/-- `LENS[lo .. lo+n-1]` as numbers (R206).  A slice that passes `LENS[315]`, as in no run, ends there: DESIGN CHOICE, log 29. -/
def lensSlice (lo n : Nat) (s : State) : List Nat := ((s.lens.toList.map BitVec.toNat).drop lo).take n

end Sys2Proof.Machine
end

