-- ==== Sys2Proof/Machine/Block.lean ====
section
/-! DEFINITION. The block parser's elements: block headers, the stored block, the first two fields of a dynamic header
(42_block_header.md, R191 to R199). -/

namespace Sys2Proof.Machine

/-- The head of the micro-step `TYPE`: the three header bits are consumed and `LAST` is written (R191). -/
def takeHeader (final : Bool) (s : State) : State := { consume 3 s with last := final }

/-- The end of a stored block's `TYPE` micro-step: `align(); BMODE <- LENS` (R192). -/
def alignStored (s : State) : State := { alignBits s with bmode := .lens }

/-- `BLK_STORED` (R191, R192). -/
def execBlkStored (final : Bool) (s : State) : Host.Outcome State Fault Refusal :=
  .next (alignStored (takeHeader final s))

/-- `BLK_FIXED` (R191, R193). -/
def execBlkFixed (final : Bool) (s : State) : Host.Outcome State Fault Refusal :=
  .next
    { takeHeader final s with
      lt := fixedLt, dt := fixedDt
      lbits := BitVec.ofNat 4 Config.lroot, dbits := BitVec.ofNat 4 Config.fdroot
      bmode := .codes, cmode := .start }

/-- `BLK_DYNAMIC` (R191, R194). -/
def execBlkDynamic (final : Bool) (s : State) : Host.Outcome State Fault Refusal :=
  .next { takeHeader final s with bmode := .table }

/-- `BLK_RESERVED` (R195): nothing is consumed and `LAST` is not written. -/
def execBlkReserved (_final : Bool) (s : State) : Host.Outcome State Fault Refusal :=
  .next (raiseBlock 4 s)

/-- `ALIGN`: the padding bits, of any value.  At the end of the blocks it is the wrapped stream's `BDONE` micro-step, which
copies the checksum and goes on to the trailer (R295); anywhere else it stands before a stored length (R192). -/
def execAlign (_n : BitVec 3) (_pad : BitVec 7) (s : State) : Host.Outcome State Fault Refusal :=
  if s.bmode = .bdone then .next { alignBits s with wasw := s.adler, mode := .check4 }
  else .next (alignStored s)

/-- `STLEN`, the micro-step `LENS` (R196). -/
def execStlen (len nlen : BitVec 16) (s : State) : Host.Outcome State Fault Refusal :=
  if ~~~nlen ≠ len then .next (raiseBlock 5 s)
  else .next { consume 32 s with left := len, bmode := if len = 0 then afterBlock s else .stored }

/-- `RAW`, the micro-step `STORED` (R197). -/
def execRaw (b : Byte) (s : State) : Host.Outcome State Fault Refusal :=
  settle (room s) (fun _ t =>
    let u := consume 8 (winWrite b t)
    .next { u with left := u.left - 1, bmode := if u.left - 1 = 0 then afterBlock u else u.bmode })

/-- `COUNTS`, the micro-step `TABLE` (R198). -/
def execCounts (hlit hdist : BitVec 5) (hclen : BitVec 4) (s : State) : Host.Outcome State Fault Refusal :=
  if 29 < hlit.toNat ∨ 29 < hdist.toNat then .next (raiseBlock 6 s)
  else
    .next
      { consume 14 s with
        nlen := BitVec.ofNat 9 (hlit.toNat + 257)
        ndist := BitVec.ofNat 5 (hdist.toNat + 1)
        nclen := BitVec.ofNat 5 (hclen.toNat + 4)
        index := 0
        cllens := Vector.replicate 19 0
        bmode := .btree }

/-- `CLL`, the reading micro-step `BTREE` (R199).  With `INDEX` above 18, as in no run, `ORDER` has no such place and `CLLENS` is not
written: DESIGN CHOICE, log 29. -/
def execCll (l : BitVec 3) (s : State) : Host.Outcome State Fault Refusal :=
  .next
    { consume 3 s with
      cllens := s.cllens.setIfInBounds (clOrder.getD s.index.toNat 19) l
      index := s.index + 1 }

end Sys2Proof.Machine
end

