-- ==== Sys2Proof/Machine/CodeLen.lean ====
section
/-! DEFINITION. The code-length symbols, the decoding micro-step `DTREE` (42_block_header.md, R201 to R205). -/

namespace Sys2Proof.Machine

/-- `LENS[i] <- v` for the `j` indices from `i` on (R202).  An index above 315, as in no run, is not written: DESIGN CHOICE,
log 29. -/
def fillLens (v : BitVec 4) : Nat → Nat → Vector (BitVec 4) 316 → Vector (BitVec 4) 316
  | 0, _, t => t
  | j + 1, i, t => fillLens v j (i + 1) (t.setIfInBounds i v)

/-- `INDEX` has room for `j` more lengths (R202). -/
def lensFit (j : Nat) (s : State) : Bool := s.index.toNat + j ≤ s.nlen.toNat + s.ndist.toNat

/-- Write `j` lengths of value `v` after an element of `w` bits (R202 to R204). -/
def putLens (w j : Nat) (v : BitVec 4) (s : State) : State :=
  { consume w s with
    lens := fillLens v j s.index.toNat s.lens
    index := s.index + BitVec.ofNat 9 j }

/-- A code-length symbol of 0 to 15 (R201). -/
def clLength (n : BitVec 4) (c : BitVec 4) (s : State) : State := putLens n.toNat 1 c s

/-- A run of zero lengths (R203, R204). -/
def clZeros (w j : Nat) (s : State) : State := if lensFit j s then putLens w j 0 s else raiseBlock 8 s

/-- A repeat of the previous length (R202).  One read beyond `LENS[315]`, as in no run, is 0: DESIGN CHOICE, log 29. -/
def clRepeat (w j : Nat) (s : State) : State :=
  if s.index.toNat < 1 || !lensFit j s then raiseBlock 8 s
  else putLens w j (s.lens.toList.getD (s.index.toNat - 1) 0) s

/-- `CL_LEN_0` (R201). -/
def execClLen0 (n : BitVec 4) (s : State) : Host.Outcome State Fault Refusal := .next (clLength n 0 s)

/-- `CL_LEN_1` (R201). -/
def execClLen1 (n : BitVec 4) (s : State) : Host.Outcome State Fault Refusal := .next (clLength n 1 s)

/-- `CL_LEN_2` (R201). -/
def execClLen2 (n : BitVec 4) (s : State) : Host.Outcome State Fault Refusal := .next (clLength n 2 s)

/-- `CL_LEN_3` (R201). -/
def execClLen3 (n : BitVec 4) (s : State) : Host.Outcome State Fault Refusal := .next (clLength n 3 s)

/-- `CL_LEN_4` (R201). -/
def execClLen4 (n : BitVec 4) (s : State) : Host.Outcome State Fault Refusal := .next (clLength n 4 s)

/-- `CL_LEN_5` (R201). -/
def execClLen5 (n : BitVec 4) (s : State) : Host.Outcome State Fault Refusal := .next (clLength n 5 s)

/-- `CL_LEN_6` (R201). -/
def execClLen6 (n : BitVec 4) (s : State) : Host.Outcome State Fault Refusal := .next (clLength n 6 s)

/-- `CL_LEN_7` (R201). -/
def execClLen7 (n : BitVec 4) (s : State) : Host.Outcome State Fault Refusal := .next (clLength n 7 s)

/-- `CL_LEN_8` (R201). -/
def execClLen8 (n : BitVec 4) (s : State) : Host.Outcome State Fault Refusal := .next (clLength n 8 s)

/-- `CL_LEN_9` (R201). -/
def execClLen9 (n : BitVec 4) (s : State) : Host.Outcome State Fault Refusal := .next (clLength n 9 s)

/-- `CL_LEN_10` (R201). -/
def execClLen10 (n : BitVec 4) (s : State) : Host.Outcome State Fault Refusal := .next (clLength n 10 s)

/-- `CL_LEN_11` (R201). -/
def execClLen11 (n : BitVec 4) (s : State) : Host.Outcome State Fault Refusal := .next (clLength n 11 s)

/-- `CL_LEN_12` (R201). -/
def execClLen12 (n : BitVec 4) (s : State) : Host.Outcome State Fault Refusal := .next (clLength n 12 s)

/-- `CL_LEN_13` (R201). -/
def execClLen13 (n : BitVec 4) (s : State) : Host.Outcome State Fault Refusal := .next (clLength n 13 s)

/-- `CL_LEN_14` (R201). -/
def execClLen14 (n : BitVec 4) (s : State) : Host.Outcome State Fault Refusal := .next (clLength n 14 s)

/-- `CL_LEN_15` (R201). -/
def execClLen15 (n : BitVec 4) (s : State) : Host.Outcome State Fault Refusal := .next (clLength n 15 s)

/-- `CL_REP` (R202): the previous length 3 + x times. -/
def execClRep (n : BitVec 4) (x : BitVec 2) (s : State) : Host.Outcome State Fault Refusal :=
  .next (clRepeat (n.toNat + 2) (3 + x.toNat) s)

/-- `CL_ZREP3` (R203): 3 + x zero lengths. -/
def execClZrep3 (n : BitVec 4) (x : BitVec 3) (s : State) : Host.Outcome State Fault Refusal :=
  .next (clZeros (n.toNat + 3) (3 + x.toNat) s)

/-- `CL_ZREP11` (R204): 11 + x zero lengths. -/
def execClZrep11 (n : BitVec 4) (x : BitVec 7) (s : State) : Host.Outcome State Fault Refusal :=
  .next (clZeros (n.toNat + 7) (11 + x.toNat) s)

/-- `CL_INVALID` (R205). -/
def execClInvalid (_n : BitVec 4) (s : State) : Host.Outcome State Fault Refusal := .next (raiseBlock 15 s)

end Sys2Proof.Machine
end

