-- ==== Sys2Proof/Machine/Dist.lean ====
section
/-! DEFINITION. The distance symbols, the micro-step `DIST`, and the extra bits of a distance (43_symbol_engine.md, R229 to
R233). -/

namespace Sys2Proof.Machine

/-- A distance base and its number of extra bits (R230). -/
def takeDistance (n : BitVec 4) (base : BitVec 16) (x : BitVec 4) (s : State) : State :=
  { consume n.toNat s with distr := base, ext := x, cmode := .distext }

/-- The distance symbol `k` of the table of R118 (R230). -/
def distanceSymbol (k : Nat) (n : BitVec 4) (s : State) : State :=
  let r := distanceTable.getD k (0, 0)
  takeDistance n (BitVec.ofNat 16 r.1) (BitVec.ofNat 4 r.2) s

/-- `DIST_0` (R230). -/
def execDist0 (n : BitVec 4) (s : State) : Host.Outcome State Fault Refusal := .next (distanceSymbol 0 n s)

/-- `DIST_1` (R230). -/
def execDist1 (n : BitVec 4) (s : State) : Host.Outcome State Fault Refusal := .next (distanceSymbol 1 n s)

/-- `DIST_2` (R230). -/
def execDist2 (n : BitVec 4) (s : State) : Host.Outcome State Fault Refusal := .next (distanceSymbol 2 n s)

/-- `DIST_3` (R230). -/
def execDist3 (n : BitVec 4) (s : State) : Host.Outcome State Fault Refusal := .next (distanceSymbol 3 n s)

/-- `DIST_4` (R230). -/
def execDist4 (n : BitVec 4) (s : State) : Host.Outcome State Fault Refusal := .next (distanceSymbol 4 n s)

/-- `DIST_5` (R230). -/
def execDist5 (n : BitVec 4) (s : State) : Host.Outcome State Fault Refusal := .next (distanceSymbol 5 n s)

/-- `DIST_6` (R230). -/
def execDist6 (n : BitVec 4) (s : State) : Host.Outcome State Fault Refusal := .next (distanceSymbol 6 n s)

/-- `DIST_7` (R230). -/
def execDist7 (n : BitVec 4) (s : State) : Host.Outcome State Fault Refusal := .next (distanceSymbol 7 n s)

/-- `DIST_8` (R230). -/
def execDist8 (n : BitVec 4) (s : State) : Host.Outcome State Fault Refusal := .next (distanceSymbol 8 n s)

/-- `DIST_9` (R230). -/
def execDist9 (n : BitVec 4) (s : State) : Host.Outcome State Fault Refusal := .next (distanceSymbol 9 n s)

/-- `DIST_10` (R230). -/
def execDist10 (n : BitVec 4) (s : State) : Host.Outcome State Fault Refusal := .next (distanceSymbol 10 n s)

/-- `DIST_11` (R230). -/
def execDist11 (n : BitVec 4) (s : State) : Host.Outcome State Fault Refusal := .next (distanceSymbol 11 n s)

/-- `DIST_12` (R230). -/
def execDist12 (n : BitVec 4) (s : State) : Host.Outcome State Fault Refusal := .next (distanceSymbol 12 n s)

/-- `DIST_13` (R230). -/
def execDist13 (n : BitVec 4) (s : State) : Host.Outcome State Fault Refusal := .next (distanceSymbol 13 n s)

/-- `DIST_14` (R230). -/
def execDist14 (n : BitVec 4) (s : State) : Host.Outcome State Fault Refusal := .next (distanceSymbol 14 n s)

/-- `DIST_15` (R230). -/
def execDist15 (n : BitVec 4) (s : State) : Host.Outcome State Fault Refusal := .next (distanceSymbol 15 n s)

/-- `DIST_16` (R230). -/
def execDist16 (n : BitVec 4) (s : State) : Host.Outcome State Fault Refusal := .next (distanceSymbol 16 n s)

/-- `DIST_17` (R230). -/
def execDist17 (n : BitVec 4) (s : State) : Host.Outcome State Fault Refusal := .next (distanceSymbol 17 n s)

/-- `DIST_18` (R230). -/
def execDist18 (n : BitVec 4) (s : State) : Host.Outcome State Fault Refusal := .next (distanceSymbol 18 n s)

/-- `DIST_19` (R230). -/
def execDist19 (n : BitVec 4) (s : State) : Host.Outcome State Fault Refusal := .next (distanceSymbol 19 n s)

/-- `DIST_20` (R230). -/
def execDist20 (n : BitVec 4) (s : State) : Host.Outcome State Fault Refusal := .next (distanceSymbol 20 n s)

/-- `DIST_21` (R230). -/
def execDist21 (n : BitVec 4) (s : State) : Host.Outcome State Fault Refusal := .next (distanceSymbol 21 n s)

/-- `DIST_22` (R230). -/
def execDist22 (n : BitVec 4) (s : State) : Host.Outcome State Fault Refusal := .next (distanceSymbol 22 n s)

/-- `DIST_23` (R230). -/
def execDist23 (n : BitVec 4) (s : State) : Host.Outcome State Fault Refusal := .next (distanceSymbol 23 n s)

/-- `DIST_24` (R230). -/
def execDist24 (n : BitVec 4) (s : State) : Host.Outcome State Fault Refusal := .next (distanceSymbol 24 n s)

/-- `DIST_25` (R230). -/
def execDist25 (n : BitVec 4) (s : State) : Host.Outcome State Fault Refusal := .next (distanceSymbol 25 n s)

/-- `DIST_26` (R230). -/
def execDist26 (n : BitVec 4) (s : State) : Host.Outcome State Fault Refusal := .next (distanceSymbol 26 n s)

/-- `DIST_27` (R230). -/
def execDist27 (n : BitVec 4) (s : State) : Host.Outcome State Fault Refusal := .next (distanceSymbol 27 n s)

/-- `DIST_28` (R230). -/
def execDist28 (n : BitVec 4) (s : State) : Host.Outcome State Fault Refusal := .next (distanceSymbol 28 n s)

/-- `DIST_29` (R230). -/
def execDist29 (n : BitVec 4) (s : State) : Host.Outcome State Fault Refusal := .next (distanceSymbol 29 n s)

/-- `D_RESERVED_30` (R232). -/
def execDReserved30 (s : State) : Host.Outcome State Fault Refusal := .next (raiseCodes 12 s)

/-- `D_RESERVED_31` (R232). -/
def execDReserved31 (s : State) : Host.Outcome State Fault Refusal := .next (raiseCodes 12 s)

/-- `D_INVALID` (R232). -/
def execDInvalid (_n : BitVec 4) (s : State) : Host.Outcome State Fault Refusal := .next (raiseCodes 12 s)

/-- `DIST_EXTRA`, the micro-step `DISTEXT` (R233).  Of a sum above 65535, which no run reaches, `DISTR` keeps the low 16 bits:
DESIGN CHOICE, log 28. -/
def execDistExtra (w : BitVec 4) (x : BitVec 15) (s : State) : Host.Outcome State Fault Refusal :=
  .next { consume w.toNat s with distr := BitVec.ofNat 16 (s.distr.toNat + x.toNat), cmode := .copy }

end Sys2Proof.Machine
end

