-- ==== Sys2Proof/Machine/HostCmd.lean ====
section
/-! DEFINITION. The host commands INIT, RESET, STEP, SET_DICT, SYNC, END and the illegal code (46_stream_control.md, R281 to
R289, R297, R300). -/

namespace Sys2Proof.Machine

/-- The INIT argument (R102): `NOWRAP` and the window bits, or a refusal. -/
def decodeInitArg (a : Byte) : Option (Bool × Nat) :=
  let w := a.toInt
  if w < 0 then
    if (Config.wbitsMin : Int) ≤ -w ∧ -w ≤ Config.wbitsMax then some (true, a.toInt.natAbs) else none
  else if fieldAt a.toNat 4 1 = 1 ∨ fieldAt a.toNat 5 1 = 1 then none
  else if (Config.wbitsMin : Int) ≤ w ∧ w ≤ Config.wbitsMax then some (false, a.toInt.natAbs) else none

/-- The ownership check every command but INIT begins with (R282). -/
def requireOwn (s : State) (k : State → Host.Outcome State Fault Refusal) : Host.Outcome State Fault Refusal :=
  if s.own then k s else .next (ret .streamError s)

/-- `INIT` (R283). -/
def execInit (s : State) : Host.Outcome State Fault Refusal :=
  match decodeInitArg s.arg with
  | none => .next (ret .streamError s)
  | some (raw, wb) =>
    .next (ret .ok (resetState
      { s with
        own := true, nowrap := raw, wbitsCfg := BitVec.ofNat 4 wb
        availIn := 0, availOut := 0, inBound := false, outBound := false }))

/-- `RESET` (R285). -/
def execReset (s : State) : Host.Outcome State Fault Refusal :=
  requireOwn s (fun s => .next (ret .ok (resetState s)))

/-- `END` (R286). -/
def execEndCmd (s : State) : Host.Outcome State Fault Refusal :=
  requireOwn s (fun s => .next (ret .ok { s with own := false }))

/-- `STEP` (R287): the entry checks in the order of R288, then the engine is busy with the main loop of R290, one micro-step a
step of the machine, until a stop ends the command. -/
def execStepCmd (s : State) : Host.Outcome State Fault Refusal :=
  requireOwn s (fun s =>
    if !s.inBound || !s.outBound then .next (ret .streamError s)
    else if !flushModeLegal s.arg then .next (ret .streamError s)
    else if inWraps s || outWraps s then .next (ret .streamError s)
    else
      match s.mode with
      | .bad => .next (ret .dataError { s with flushr := s.arg })
      | .done => .next (ret .streamEnd { s with flushr := s.arg })
      | .dict0 => .next (ret .needDict { s with flushr := s.arg })
      | _ => .next { s with flushr := s.arg, busy := true, entryIn := s.availIn, entryOut := s.availOut })

/-- The bytes of the dictionary slice from address `a` on, or the first address that holds none (R73). -/
def readSlice (m : Memory) (a : Nat) : Nat → Except Nat (List Byte)
  | 0 => .ok []
  | k + 1 =>
    match m.read a with
    | none => .error a
    | some b =>
      match readSlice m (a + 1) k with
      | .ok r => .ok (b :: r)
      | .error e => .error e

/-- `SET_DICT` (R297). -/
def execSetDict (s : State) : Host.Outcome State Fault Refusal :=
  requireOwn s (fun s =>
    if s.mode ≠ .dict0 then .next (ret .streamError s)
    else if dictWraps s then .next (ret .streamError s)
    else
      match readSlice s.memDict s.dictPtr.toNat s.dictLen.toNat with
      | .error a => .fault (.dictUnreadable a)
      | .ok bytes =>
        if adlerOf 1 bytes ≠ s.needw then .next (ret .dataError s)
        else .next (ret .ok { loadDict bytes s with mode := .blocks }))

/-- `MARK[m]`, the marker `00 00 FF FF` (R300). -/
def markByte (m : Nat) : Byte := if m < 2 then 0 else 0xFF

/-- The marker automaton (R300). -/
def syncNext (m : Nat) (b : Byte) : Nat := if b = markByte m then m + 1 else if b ≠ 0 then 0 else 4 - m

/-- The scan of SYNC (R300): at most `k` bytes, until `m` reaches 4. -/
def syncScan : Nat → Nat → State → Got Nat
  | 0, m, s => .ok m s
  | k + 1, m, s =>
    if 4 ≤ m then .ok m s
    else
      match s.memIn.read s.nextIn.toNat with
      | none => .fault (.inputUnreadable s.nextIn.toNat)
      | some b => syncScan k (syncNext m b) (advanceIn s)

/-- A SYNC on a healthy stream abandons it (R300). -/
def abandon (s : State) : State := if s.mode = .bad then s else { s with mode := .bad, marker := 0 }

/-- `SYNC` (R300). -/
def execSync (s : State) : Host.Outcome State Fault Refusal :=
  requireOwn s (fun s =>
    if !s.inBound || inWraps s then .next (ret .streamError s)
    else
      let t := abandon s
      if t.availIn = 0 then .next (ret .bufError t)
      else
        match syncScan t.availIn.toNat t.marker.toNat t with
        | .fault f => .fault f
        | .stop _ u => .next u
        | .ok m u =>
          if m ≠ 4 then .next (ret .dataError { u with marker := BitVec.ofNat 3 m })
          else .next (ret .ok (returnFromBad u)))

/-- An illegal command code (R281). -/
def execCmdIllegal (_c : Byte) (s : State) : Host.Outcome State Fault Refusal :=
  .next (ret .streamError s)

end Sys2Proof.Machine
end

