-- ==== Sys2Proof/Machine/LitLen.lean ====
section
/-! DEFINITION. The literal/length symbols, the micro-step `LEN`, and the extra bits of a length (43_symbol_engine.md, R222 to
R228). -/

namespace Sys2Proof.Machine

/-- A literal (R223). -/
def takeLiteral (n : BitVec 4) (b : Byte) (s : State) : State := { consume n.toNat s with litv := b, cmode := .lit }

/-- The end of a block (R224). -/
def takeEob (n : BitVec 4) (s : State) : State := { consume n.toNat s with cmode := .wash }

/-- A length base and its number of extra bits (R225). -/
def takeLength (n : BitVec 4) (base : BitVec 9) (x : BitVec 4) (s : State) : State :=
  { consume n.toNat s with lenr := base, ext := x, cmode := .lenext }

/-- The length symbol `257 + s` of the table of R117 (R225). -/
def lengthSymbol (k : Nat) (n : BitVec 4) (s : State) : State :=
  let r := lengthTable.getD k (0, 0)
  takeLength n (BitVec.ofNat 9 r.1) (BitVec.ofNat 4 r.2) s

/-- `LIT` (R223). -/
def execLit (n : BitVec 4) (b : Byte) (s : State) : Host.Outcome State Fault Refusal := .next (takeLiteral n b s)

/-- `EOB` (R224). -/
def execEob (n : BitVec 4) (s : State) : Host.Outcome State Fault Refusal := .next (takeEob n s)

/-- `LEN_257` (R225). -/
def execLen257 (n : BitVec 4) (s : State) : Host.Outcome State Fault Refusal := .next (lengthSymbol 0 n s)

/-- `LEN_258` (R225). -/
def execLen258 (n : BitVec 4) (s : State) : Host.Outcome State Fault Refusal := .next (lengthSymbol 1 n s)

/-- `LEN_259` (R225). -/
def execLen259 (n : BitVec 4) (s : State) : Host.Outcome State Fault Refusal := .next (lengthSymbol 2 n s)

/-- `LEN_260` (R225). -/
def execLen260 (n : BitVec 4) (s : State) : Host.Outcome State Fault Refusal := .next (lengthSymbol 3 n s)

/-- `LEN_261` (R225). -/
def execLen261 (n : BitVec 4) (s : State) : Host.Outcome State Fault Refusal := .next (lengthSymbol 4 n s)

/-- `LEN_262` (R225). -/
def execLen262 (n : BitVec 4) (s : State) : Host.Outcome State Fault Refusal := .next (lengthSymbol 5 n s)

/-- `LEN_263` (R225). -/
def execLen263 (n : BitVec 4) (s : State) : Host.Outcome State Fault Refusal := .next (lengthSymbol 6 n s)

/-- `LEN_264` (R225). -/
def execLen264 (n : BitVec 4) (s : State) : Host.Outcome State Fault Refusal := .next (lengthSymbol 7 n s)

/-- `LEN_265` (R225). -/
def execLen265 (n : BitVec 4) (s : State) : Host.Outcome State Fault Refusal := .next (lengthSymbol 8 n s)

/-- `LEN_266` (R225). -/
def execLen266 (n : BitVec 4) (s : State) : Host.Outcome State Fault Refusal := .next (lengthSymbol 9 n s)

/-- `LEN_267` (R225). -/
def execLen267 (n : BitVec 4) (s : State) : Host.Outcome State Fault Refusal := .next (lengthSymbol 10 n s)

/-- `LEN_268` (R225). -/
def execLen268 (n : BitVec 4) (s : State) : Host.Outcome State Fault Refusal := .next (lengthSymbol 11 n s)

/-- `LEN_269` (R225). -/
def execLen269 (n : BitVec 4) (s : State) : Host.Outcome State Fault Refusal := .next (lengthSymbol 12 n s)

/-- `LEN_270` (R225). -/
def execLen270 (n : BitVec 4) (s : State) : Host.Outcome State Fault Refusal := .next (lengthSymbol 13 n s)

/-- `LEN_271` (R225). -/
def execLen271 (n : BitVec 4) (s : State) : Host.Outcome State Fault Refusal := .next (lengthSymbol 14 n s)

/-- `LEN_272` (R225). -/
def execLen272 (n : BitVec 4) (s : State) : Host.Outcome State Fault Refusal := .next (lengthSymbol 15 n s)

/-- `LEN_273` (R225). -/
def execLen273 (n : BitVec 4) (s : State) : Host.Outcome State Fault Refusal := .next (lengthSymbol 16 n s)

/-- `LEN_274` (R225). -/
def execLen274 (n : BitVec 4) (s : State) : Host.Outcome State Fault Refusal := .next (lengthSymbol 17 n s)

/-- `LEN_275` (R225). -/
def execLen275 (n : BitVec 4) (s : State) : Host.Outcome State Fault Refusal := .next (lengthSymbol 18 n s)

/-- `LEN_276` (R225). -/
def execLen276 (n : BitVec 4) (s : State) : Host.Outcome State Fault Refusal := .next (lengthSymbol 19 n s)

/-- `LEN_277` (R225). -/
def execLen277 (n : BitVec 4) (s : State) : Host.Outcome State Fault Refusal := .next (lengthSymbol 20 n s)

/-- `LEN_278` (R225). -/
def execLen278 (n : BitVec 4) (s : State) : Host.Outcome State Fault Refusal := .next (lengthSymbol 21 n s)

/-- `LEN_279` (R225). -/
def execLen279 (n : BitVec 4) (s : State) : Host.Outcome State Fault Refusal := .next (lengthSymbol 22 n s)

/-- `LEN_280` (R225). -/
def execLen280 (n : BitVec 4) (s : State) : Host.Outcome State Fault Refusal := .next (lengthSymbol 23 n s)

/-- `LEN_281` (R225). -/
def execLen281 (n : BitVec 4) (s : State) : Host.Outcome State Fault Refusal := .next (lengthSymbol 24 n s)

/-- `LEN_282` (R225). -/
def execLen282 (n : BitVec 4) (s : State) : Host.Outcome State Fault Refusal := .next (lengthSymbol 25 n s)

/-- `LEN_283` (R225). -/
def execLen283 (n : BitVec 4) (s : State) : Host.Outcome State Fault Refusal := .next (lengthSymbol 26 n s)

/-- `LEN_284` (R225). -/
def execLen284 (n : BitVec 4) (s : State) : Host.Outcome State Fault Refusal := .next (lengthSymbol 27 n s)

/-- `LEN_285` (R225). -/
def execLen285 (n : BitVec 4) (s : State) : Host.Outcome State Fault Refusal := .next (lengthSymbol 28 n s)

/-- `LL_RESERVED_286` (R227). -/
def execLlReserved286 (s : State) : Host.Outcome State Fault Refusal := .next (raiseCodes 11 s)

/-- `LL_RESERVED_287` (R227). -/
def execLlReserved287 (s : State) : Host.Outcome State Fault Refusal := .next (raiseCodes 11 s)

/-- `LL_INVALID` (R227). -/
def execLlInvalid (_n : BitVec 4) (s : State) : Host.Outcome State Fault Refusal := .next (raiseCodes 11 s)

/-- `LEN_EXTRA`, the micro-step `LENEXT` (R228).  Of a sum above 511, which no run reaches, `LENR` keeps the low 9 bits: DESIGN
CHOICE, log 28. -/
def execLenExtra (w : BitVec 4) (x : BitVec 15) (s : State) : Host.Outcome State Fault Refusal :=
  .next
    { consume w.toNat s with
      lenr := BitVec.ofNat 9 (s.lenr.toNat + x.toNat)
      tptr := 0, tneed := s.dbits, cmode := .dist }

end Sys2Proof.Machine
end

