-- ==== Sys2Proof/Machine/TableEntry.lean ====
section
/-! DEFINITION. A table entry taken by its class alone (R123, R174): what the micro-step that looked it up does with it.  The
micro-step is `DTREE`, `LEN` or `DIST` (R176), as `BMODE` and `CMODE` say. -/

namespace Sys2Proof.Machine

/-- The alphabet of the micro-step the state selects: `CL` in `DTREE`, `D` in `DIST`, else `LL`.  In a state
whose micro-step is none of these the choice is the model's (log 15). -/
def lookupKind (s : State) : Kind :=
  if s.bmode = .dtree then .cl else if s.cmode = .dist then .d else .ll

/-- A code-length symbol given by its number, its extra bits being those above its code (R201 to R204).  No table holds a
number above 18; one would be no code-length symbol, as R205 has it (log 12). -/
def clSymbol (c : Nat) (n : BitVec 4) (s : State) : State :=
  if c ≤ 15 then clLength n (BitVec.ofNat 4 c) s
  else if c = 16 then clRepeat (n.toNat + 2) (3 + fieldAt s.bitb.toNat n.toNat 2) s
  else if c = 17 then clZeros (n.toNat + 3) (3 + fieldAt s.bitb.toNat n.toNat 3) s
  else if c = 18 then clZeros (n.toNat + 7) (11 + fieldAt s.bitb.toNat n.toNat 7) s
  else raiseBlock 15 s

/-- The error of an entry the alphabet does not have (R180). -/
def raiseInvalid (k : Kind) (s : State) : State :=
  match k with
  | .cl => raiseBlock 15 s
  | .ll => raiseCodes 11 s
  | .d => raiseCodes 12 s

/-- `T_LIT` (R174): a symbol of `CT`, a literal of `LT`, an error in `DT`. -/
def execTLit (n : BitVec 4) (v : BitVec 16) (s : State) : Host.Outcome State Fault Refusal :=
  match lookupKind s with
  | .cl => .next (clSymbol v.toNat n s)
  | .ll => .next (takeLiteral n (BitVec.ofNat 8 v.toNat) s)
  | .d => .next (raiseInvalid .d s)

/-- `T_LINK` (R177): consume the level's bits and go on in the sub-table. -/
def execTLink (w n : BitVec 4) (v : BitVec 16) (s : State) : Host.Outcome State Fault Refusal :=
  match lookupKind s with
  | .cl => .next (raiseInvalid .cl s)
  | _ => .next { consume n.toNat s with tptr := v, tneed := w }

/-- `T_BASE` (R174): a length base of `LT`, a distance base of `DT`, an error in `CT`.  Of a length base above 511, which no built
table holds, `LENR` keeps the low 9 bits: DESIGN CHOICE, log 28. -/
def execTBase (x n : BitVec 4) (v : BitVec 16) (s : State) : Host.Outcome State Fault Refusal :=
  match lookupKind s with
  | .cl => .next (raiseInvalid .cl s)
  | .ll => .next (takeLength n (BitVec.ofNat 9 v.toNat) x s)
  | .d => .next (takeDistance n v x s)

/-- `T_EOB` (R174): the end of the block in `LT`, an error elsewhere. -/
def execTEob (n : BitVec 4) (_v : BitVec 16) (s : State) : Host.Outcome State Fault Refusal :=
  match lookupKind s with
  | .ll => .next (takeEob n s)
  | k => .next (raiseInvalid k s)

/-- `T_INVALID` (R180). -/
def execTInvalid (_op : BitVec 8) (_n : BitVec 4) (_v : BitVec 16) (s : State) : Host.Outcome State Fault Refusal :=
  .next (raiseInvalid (lookupKind s) s)

end Sys2Proof.Machine
end

