-- ==== Sys2Proof/Machine/Wrapper.lean ====
section
/-! DEFINITION. The zlib wrapper's elements: CMF, FLG, DICTID, ADLER32 (46_stream_control.md, R291 to R296). -/

namespace Sys2Proof.Machine

/-- `CMF`, the micro-step `METHOD` (R104, R291). -/
def execCmf (c : Byte) (s : State) : Host.Outcome State Fault Refusal :=
  if fieldAt c.toNat 0 4 ≠ 8 then .next (raise 1 s)
  else if s.wbitsCfg.toNat < fieldAt c.toNat 4 4 + 8 then .next (raise 2 s)
  else .next { consume 8 s with methodr := c, mode := .flag }

/-- `FLG`, the micro-step `FLAG` (R105, R292).  Of window bits above 15, which `METHOD` lets pass in no run, `WBITS` keeps the low 4
bits: DESIGN CHOICE, log 28. -/
def execFlg (f : Byte) (s : State) : Host.Outcome State Fault Refusal :=
  if (s.methodr.toNat * 256 + f.toNat) % 31 ≠ 0 then .next (raise 3 s)
  else
    .next
      { resetWindow (consume 8 s) with
        wbits := BitVec.ofNat 4 (fieldAt s.methodr.toNat 4 4 + 8)
        mode := if fieldAt f.toNat 5 1 = 1 then .dict4 else .blocks }

/-- Byte `k` of a 32-bit word sent most significant byte first (R124 (f)): byte 0 starts the word, the others are or-ed in. -/
def wordByte (k : Fin 4) (b : Byte) (w : Word) : Word :=
  match k with
  | 0 => b.setWidth 32 <<< 24
  | 1 => w ||| (b.setWidth 32 <<< 16)
  | 2 => w ||| (b.setWidth 32 <<< 8)
  | 3 => w ||| b.setWidth 32

/-- The mode after byte `k` of the dictionary id (R293). -/
def afterDict (k : Fin 4) : Mode :=
  match k with
  | 0 => .dict3
  | 1 => .dict2
  | 2 => .dict1
  | 3 => .dict0

/-- The mode after byte `k` of the trailer (R296). -/
def afterCheck (k : Fin 4) : Mode :=
  match k with
  | 0 => .check3
  | 1 => .check2
  | 2 => .check1
  | 3 => .done

/-- `DICTID`, the micro-steps `DICT4` to `DICT1` (R106, R293). -/
def execDictid (k : Fin 4) (b : Byte) (s : State) : Host.Outcome State Fault Refusal :=
  .next { consume 8 s with needw := wordByte k b s.needw, mode := afterDict k }

/-- `ADLER32`, the micro-steps `CHECK4` to `CHECK1` (R107, R296): the last byte's word is compared before it is consumed. -/
def execAdler32 (k : Fin 4) (b : Byte) (s : State) : Host.Outcome State Fault Refusal :=
  if k = 3 ∧ wordByte k b s.needw ≠ s.wasw then .next (raise 14 s)
  else .next { consume 8 s with needw := wordByte k b s.needw, mode := afterCheck k }

end Sys2Proof.Machine
end

