-- ==== Sys2Proof/Machine/Dispatch.lean ====
section
/-! DEFINITION. exec: one arm per constructor of Instr, each one direct call of that instruction's meaning. -/

namespace Sys2Proof.Machine

/-- The meaning of one instruction: a host command, a stream element whose bits the fetch has brought into the accumulator,
or a table entry the lookup returned. -/
def exec (i : Instr) (s : State) : Host.Outcome State Fault Refusal :=
  match i with
  | .init => Sys2Proof.Machine.execInit s
  | .reset => Sys2Proof.Machine.execReset s
  | .stepCmd => Sys2Proof.Machine.execStepCmd s
  | .setDict => Sys2Proof.Machine.execSetDict s
  | .sync => Sys2Proof.Machine.execSync s
  | .endCmd => Sys2Proof.Machine.execEndCmd s
  | .cmdIllegal c => Sys2Proof.Machine.execCmdIllegal c s
  | .cmf c => Sys2Proof.Machine.execCmf c s
  | .flg f => Sys2Proof.Machine.execFlg f s
  | .dictid k b => Sys2Proof.Machine.execDictid k b s
  | .adler32 k b => Sys2Proof.Machine.execAdler32 k b s
  | .blkStored final => Sys2Proof.Machine.execBlkStored final s
  | .blkFixed final => Sys2Proof.Machine.execBlkFixed final s
  | .blkDynamic final => Sys2Proof.Machine.execBlkDynamic final s
  | .blkReserved final => Sys2Proof.Machine.execBlkReserved final s
  | .align n pad => Sys2Proof.Machine.execAlign n pad s
  | .stlen len nlen => Sys2Proof.Machine.execStlen len nlen s
  | .raw b => Sys2Proof.Machine.execRaw b s
  | .counts hlit hdist hclen => Sys2Proof.Machine.execCounts hlit hdist hclen s
  | .cll l => Sys2Proof.Machine.execCll l s
  | .clLen0 n => Sys2Proof.Machine.execClLen0 n s
  | .clLen1 n => Sys2Proof.Machine.execClLen1 n s
  | .clLen2 n => Sys2Proof.Machine.execClLen2 n s
  | .clLen3 n => Sys2Proof.Machine.execClLen3 n s
  | .clLen4 n => Sys2Proof.Machine.execClLen4 n s
  | .clLen5 n => Sys2Proof.Machine.execClLen5 n s
  | .clLen6 n => Sys2Proof.Machine.execClLen6 n s
  | .clLen7 n => Sys2Proof.Machine.execClLen7 n s
  | .clLen8 n => Sys2Proof.Machine.execClLen8 n s
  | .clLen9 n => Sys2Proof.Machine.execClLen9 n s
  | .clLen10 n => Sys2Proof.Machine.execClLen10 n s
  | .clLen11 n => Sys2Proof.Machine.execClLen11 n s
  | .clLen12 n => Sys2Proof.Machine.execClLen12 n s
  | .clLen13 n => Sys2Proof.Machine.execClLen13 n s
  | .clLen14 n => Sys2Proof.Machine.execClLen14 n s
  | .clLen15 n => Sys2Proof.Machine.execClLen15 n s
  | .clRep n x => Sys2Proof.Machine.execClRep n x s
  | .clZrep3 n x => Sys2Proof.Machine.execClZrep3 n x s
  | .clZrep11 n x => Sys2Proof.Machine.execClZrep11 n x s
  | .clInvalid n => Sys2Proof.Machine.execClInvalid n s
  | .lit n b => Sys2Proof.Machine.execLit n b s
  | .eob n => Sys2Proof.Machine.execEob n s
  | .len257 n => Sys2Proof.Machine.execLen257 n s
  | .len258 n => Sys2Proof.Machine.execLen258 n s
  | .len259 n => Sys2Proof.Machine.execLen259 n s
  | .len260 n => Sys2Proof.Machine.execLen260 n s
  | .len261 n => Sys2Proof.Machine.execLen261 n s
  | .len262 n => Sys2Proof.Machine.execLen262 n s
  | .len263 n => Sys2Proof.Machine.execLen263 n s
  | .len264 n => Sys2Proof.Machine.execLen264 n s
  | .len265 n => Sys2Proof.Machine.execLen265 n s
  | .len266 n => Sys2Proof.Machine.execLen266 n s
  | .len267 n => Sys2Proof.Machine.execLen267 n s
  | .len268 n => Sys2Proof.Machine.execLen268 n s
  | .len269 n => Sys2Proof.Machine.execLen269 n s
  | .len270 n => Sys2Proof.Machine.execLen270 n s
  | .len271 n => Sys2Proof.Machine.execLen271 n s
  | .len272 n => Sys2Proof.Machine.execLen272 n s
  | .len273 n => Sys2Proof.Machine.execLen273 n s
  | .len274 n => Sys2Proof.Machine.execLen274 n s
  | .len275 n => Sys2Proof.Machine.execLen275 n s
  | .len276 n => Sys2Proof.Machine.execLen276 n s
  | .len277 n => Sys2Proof.Machine.execLen277 n s
  | .len278 n => Sys2Proof.Machine.execLen278 n s
  | .len279 n => Sys2Proof.Machine.execLen279 n s
  | .len280 n => Sys2Proof.Machine.execLen280 n s
  | .len281 n => Sys2Proof.Machine.execLen281 n s
  | .len282 n => Sys2Proof.Machine.execLen282 n s
  | .len283 n => Sys2Proof.Machine.execLen283 n s
  | .len284 n => Sys2Proof.Machine.execLen284 n s
  | .len285 n => Sys2Proof.Machine.execLen285 n s
  | .llReserved286 => Sys2Proof.Machine.execLlReserved286 s
  | .llReserved287 => Sys2Proof.Machine.execLlReserved287 s
  | .llInvalid n => Sys2Proof.Machine.execLlInvalid n s
  | .dist0 n => Sys2Proof.Machine.execDist0 n s
  | .dist1 n => Sys2Proof.Machine.execDist1 n s
  | .dist2 n => Sys2Proof.Machine.execDist2 n s
  | .dist3 n => Sys2Proof.Machine.execDist3 n s
  | .dist4 n => Sys2Proof.Machine.execDist4 n s
  | .dist5 n => Sys2Proof.Machine.execDist5 n s
  | .dist6 n => Sys2Proof.Machine.execDist6 n s
  | .dist7 n => Sys2Proof.Machine.execDist7 n s
  | .dist8 n => Sys2Proof.Machine.execDist8 n s
  | .dist9 n => Sys2Proof.Machine.execDist9 n s
  | .dist10 n => Sys2Proof.Machine.execDist10 n s
  | .dist11 n => Sys2Proof.Machine.execDist11 n s
  | .dist12 n => Sys2Proof.Machine.execDist12 n s
  | .dist13 n => Sys2Proof.Machine.execDist13 n s
  | .dist14 n => Sys2Proof.Machine.execDist14 n s
  | .dist15 n => Sys2Proof.Machine.execDist15 n s
  | .dist16 n => Sys2Proof.Machine.execDist16 n s
  | .dist17 n => Sys2Proof.Machine.execDist17 n s
  | .dist18 n => Sys2Proof.Machine.execDist18 n s
  | .dist19 n => Sys2Proof.Machine.execDist19 n s
  | .dist20 n => Sys2Proof.Machine.execDist20 n s
  | .dist21 n => Sys2Proof.Machine.execDist21 n s
  | .dist22 n => Sys2Proof.Machine.execDist22 n s
  | .dist23 n => Sys2Proof.Machine.execDist23 n s
  | .dist24 n => Sys2Proof.Machine.execDist24 n s
  | .dist25 n => Sys2Proof.Machine.execDist25 n s
  | .dist26 n => Sys2Proof.Machine.execDist26 n s
  | .dist27 n => Sys2Proof.Machine.execDist27 n s
  | .dist28 n => Sys2Proof.Machine.execDist28 n s
  | .dist29 n => Sys2Proof.Machine.execDist29 n s
  | .dReserved30 => Sys2Proof.Machine.execDReserved30 s
  | .dReserved31 => Sys2Proof.Machine.execDReserved31 s
  | .dInvalid n => Sys2Proof.Machine.execDInvalid n s
  | .lenExtra w x => Sys2Proof.Machine.execLenExtra w x s
  | .distExtra w x => Sys2Proof.Machine.execDistExtra w x s
  | .tLit n v => Sys2Proof.Machine.execTLit n v s
  | .tLink w n v => Sys2Proof.Machine.execTLink w n v s
  | .tBase x n v => Sys2Proof.Machine.execTBase x n v s
  | .tEob n v => Sys2Proof.Machine.execTEob n v s
  | .tInvalid op n v => Sys2Proof.Machine.execTInvalid op n v s

end Sys2Proof.Machine
end

