-- ==== Sys2Proof/Machine/Micro.lean ====
section
/-! DEFINITION. The micro-steps that read no stream element (42_block_header.md R200, R206, R208; 43_symbol_engine.md R221,
R234 to R237; 46_stream_control.md R294, R295, R298, R299). -/

namespace Sys2Proof.Machine

/-- The micro-steps that decode nothing. -/
inductive Micro where
  | start | litWrite | copy | wash | blockEnd | buildCl | buildCodes | dry | bdoneRaw | dict0 | done | bad | dead
deriving DecidableEq, Repr

/-- `START` (R221). -/
def microStart (s : State) : State := { s with tptr := 0, tneed := s.lbits, cmode := .len }

/-- `LIT` (R235). -/
def microLit (s : State) : Host.Outcome State Fault Refusal :=
  settle (room s) (fun _ t => .next { winWrite t.litv t with cmode := .start })

/-- One byte of a back-reference (R234, after the checks): read, write, count down. -/
def copyByte (s : State) : State :=
  let t := winWrite (winRead s.distr.toNat s) s
  { t with lenr := t.lenr - 1, cmode := if t.lenr - 1 = 0 then .start else t.cmode }

/-- `COPY` (R234). -/
def microCopy (s : State) : Host.Outcome State Fault Refusal :=
  if s.whave.toNat < s.distr.toNat then .next (raiseCodes 13 s)
  else if s.lenr = 0 then .next { s with cmode := .start }
  else settle (room s) (fun _ t => .next (copyByte t))

/-- Drain the window, and go on only when nothing is pending (R208, R236). -/
def drain (k : State → State) (s : State) : Host.Outcome State Fault Refusal :=
  let t := flush s
  if 0 < t.pend.toNat then .next (finish .needOut t) else .next (k t)

/-- `WASH` (R236). -/
def microWash (s : State) : Host.Outcome State Fault Refusal := drain (fun t => { t with cmode := .blockEnd }) s

/-- `END` of the symbol engine (R237). -/
def microBlockEnd (s : State) : State := { s with bmode := afterBlock s }

/-- `DRY` (R208). -/
def microDry (s : State) : Host.Outcome State Fault Refusal := drain (fun t => { t with bmode := .bdone }) s

/-- `BDONE` of a raw stream (R295). -/
def microBdoneRaw (s : State) : State := { s with mode := .done }

/-- `BTREE`, building (R200). -/
def microBuildCl (s : State) : State :=
  match build (clLens s) Config.clroot .cl with
  | .ok t => { s with ct := t, index := 0, bmode := .dtree }
  | _ => raiseBlock 7 s

/-- `DTREE`, building, after the literal/length set was accepted as `lt` (R206). -/
def buildDistance (lt : List Entry) (s : State) : State :=
  match build (lensSlice s.nlen.toNat s.ndist.toNat s) Config.droot .d with
  | .over => raiseBlock 10 s
  | .incomplete => raiseBlock 10 s
  | .ok dt | .empty dt =>
    { s with
      lt := lt, dt := dt
      lbits := BitVec.ofNat 4 Config.lroot, dbits := BitVec.ofNat 4 Config.droot
      bmode := .codes, cmode := .start }

/-- `DTREE`, building (R206). -/
def microBuildCodes (s : State) : State :=
  match build (lensSlice 0 s.nlen.toNat s) Config.lroot .ll with
  | .ok lt => buildDistance lt s
  | _ => raiseBlock 9 s

/-- A micro-step that decodes nothing. -/
def runMicro (m : Micro) (s : State) : Host.Outcome State Fault Refusal :=
  match m with
  | .start => .next (microStart s)
  | .litWrite => microLit s
  | .copy => microCopy s
  | .wash => microWash s
  | .blockEnd => .next (microBlockEnd s)
  | .buildCl => .next (microBuildCl s)
  | .buildCodes => .next (microBuildCodes s)
  | .dry => microDry s
  | .bdoneRaw => .next (microBdoneRaw s)
  -- R294, R298, R299: these stop at once
  | .dict0 => .next (finish .dict s)
  | .done => .next (finish .finished s)
  | .bad => .next (finish .err s)
  -- R210, R238: never dispatched
  | .dead => .fault .neverDispatched

end Sys2Proof.Machine
end

