-- ==== Sys2Proof/Machine/Fetch.lean ====
section
/-! DEFINITION. Selecting the next micro-step from `MODE`, `BMODE`, `CMODE` (R9, R290), and fetching the element it decodes:
the bits it needs are pulled into the accumulator, and what is pulled stays pulled (R9, R145). -/

namespace Sys2Proof.Machine

/-- What the state registers select: an element to decode, or a micro-step that decodes nothing. -/
inductive Action where
  | element (slot : Slot)
  | micro (m : Micro)
deriving DecidableEq, Repr

/-- The symbol engine's choice (R220). -/
def selectCodes (s : State) : Action :=
  match s.cmode with
  | .start => .micro .start
  | .len => .element .len
  | .lenext => .element (.lenext s.ext)
  | .dist => .element .dist
  | .distext => .element (.distext s.ext)
  | .copy => .micro .copy
  | .lit => .micro .litWrite
  | .wash => .micro .wash
  | .blockEnd => .micro .blockEnd
  | .badcode => .micro .dead

/-- The block parser's choice (R190).  With `INDEX` above its count in `BTREE` or `DTREE`, as in no run, it is the building
micro-step, as when they are equal: DESIGN CHOICE, log 29. -/
def selectBlock (s : State) : Action :=
  match s.bmode with
  | .type => .element .header
  | .lens => .element .lens
  | .stored => .element .stored
  | .table => .element .table
  | .btree => if s.index.toNat < s.nclen.toNat then .element .btree else .micro .buildCl
  | .dtree => if s.index.toNat < s.nlen.toNat + s.ndist.toNat then .element .dtree else .micro .buildCodes
  | .codes => selectCodes s
  | .dry => .micro .dry
  | .bdone => if s.nowrap then .micro .bdoneRaw else .element (.align (BitVec.ofNat 3 (s.bitk.toNat % 8)))
  | .bbad => .micro .dead

/-- The sequencer's choice (R280, R290). -/
def select (s : State) : Action :=
  match s.mode with
  | .method => .element .method
  | .flag => .element .flag
  | .dict4 => .element (.dict 0)
  | .dict3 => .element (.dict 1)
  | .dict2 => .element (.dict 2)
  | .dict1 => .element (.dict 3)
  | .dict0 => .micro .dict0
  | .blocks => selectBlock s
  | .check4 => .element (.check 0)
  | .check3 => .element (.check 1)
  | .check2 => .element (.check 2)
  | .check1 => .element (.check 3)
  | .done => .micro .done
  | .bad => .micro .bad

/-- Fetch a plain field of `n` bits. -/
def fetchBits (n : Nat) (s : State) : Got Entry := (needBits n s).bind (fun _ t => .ok Entry.invalid t)

/-- The bits that follow a code-length symbol's code (R120). -/
def clExtra (e : Entry) : Nat :=
  match entryClass e.op with
  | .lit => if e.val.toNat = 16 then 2 else if e.val.toNat = 17 then 3 else if e.val.toNat = 18 then 7 else 0
  | _ => 0

/-- Fetch a code-length symbol: the code, and with it its extra bits (R201, R202). -/
def fetchCl (s : State) : Got Entry :=
  (lookup s.ct 0 Config.clroot s).bind (fun e t =>
    if clExtra e = 0 then .ok e t else (needBits (e.bits.toNat + clExtra e) t).bind (fun _ u => .ok e u))

/-- Fetch the element a decoder state reads (R148), with the table entry for a symbol. -/
def fetch (slot : Slot) (s : State) : Got Entry :=
  match slot with
  | .command => .ok Entry.invalid s
  | .method => fetchBits 8 s
  | .flag => fetchBits 8 s
  | .dict _ => fetchBits 8 s
  | .check _ => fetchBits 8 s
  | .header => fetchBits 3 s
  | .align _ => .ok Entry.invalid s
  | .lens => fetchBits 32 s
  -- R197: `room()` comes first, so a byte is pulled only when there is a place for it
  | .stored => (room s).bind (fun _ t => fetchBits 8 t)
  | .table => fetchBits 14 s
  | .btree => fetchBits 3 s
  | .dtree => fetchCl s
  | .len => lookup s.lt s.tptr.toNat s.tneed.toNat s
  | .lenext w => fetchBits w.toNat s
  | .dist => lookup s.dt s.tptr.toNat s.tneed.toNat s
  | .distext w => fetchBits w.toNat s

end Sys2Proof.Machine
end

