-- ==== Sys2Proof/Machine/HostPort.lean ====
section
/-! DEFINITION. The host's moves on an idle engine: reading and writing the register file of R21, storing bytes in its own
memory, and the reset input. -/

namespace Sys2Proof.Machine

/-- A free value for a read the spec leaves unspecified (R21, R22; log 3). -/
def readFree (s : State) : State :=
  { s with hostData := Config.freeHostRead s.freeCount, freeCount := s.freeCount + 1 }

/-- A host read of a register by its number (R21), zero-extended. -/
def hostRead (reg : BitVec 8) (s : State) : State :=
  match reg.toNat with
  | 0x01 => { s with hostData := s.arg.setWidth 64 }
  | 0x02 => { s with hostData := (statusWord s).setWidth 64 }
  | 0x03 => { s with hostData := s.msg.setWidth 64 }
  | 0x04 => { s with hostData := s.nextIn.setWidth 64 }
  | 0x05 => { s with hostData := s.availIn.setWidth 64 }
  | 0x06 => { s with hostData := s.nextOut.setWidth 64 }
  | 0x07 => { s with hostData := s.availOut.setWidth 64 }
  | 0x08 => { s with hostData := s.totalIn }
  | 0x09 => { s with hostData := s.totalOut }
  | 0x0A => { s with hostData := s.adler.setWidth 64 }
  | 0x0B => { s with hostData := s.needw.setWidth 64 }
  | 0x0C => { s with hostData := s.dictPtr.setWidth 64 }
  | 0x0D => { s with hostData := s.dictLen.setWidth 64 }
  | _ => readFree s

/-- A host write of a register by its number (R21 to R33): writing `NEXT_IN` or `NEXT_OUT` binds its slice (R26, R28), writing
`CMD` starts a command (R22); a write of a reserved number is ignored, and so is one of a read-only register (log 7). -/
def hostWrite (reg : BitVec 8) (v : BitVec 64) (s : State) : State :=
  match reg.toNat with
  | 0x00 => { s with cmd := some (v.setWidth 8) }
  | 0x01 => { s with arg := v.setWidth 8 }
  | 0x04 => { s with nextIn := v.setWidth 32, inBound := true }
  | 0x05 => { s with availIn := v.setWidth 32 }
  | 0x06 => { s with nextOut := v.setWidth 32, outBound := true }
  | 0x07 => { s with availOut := v.setWidth 32 }
  | 0x0C => { s with dictPtr := v.setWidth 32 }
  | 0x0D => { s with dictLen := v.setWidth 32 }
  | _ => s

/-- The host stores a byte in one of its memory spaces (R70, R89). -/
def poke (space : Space) (a : Word) (b : Byte) (s : State) : State :=
  match space with
  | .input => { s with memIn := s.memIn.write a.toNat b }
  | .output => { s with memOut := s.memOut.write a.toNat b }
  | .dictionary => { s with memDict := s.memDict.write a.toNat b }

/-- The reset input (R370, R371): the engine as after power-on; the host's memory and the host itself are not the engine's. -/
def hardReset (s : State) : State :=
  { State.reset with
    memIn := s.memIn, memOut := s.memOut, memDict := s.memDict
    host := s.host, loop := s.loop, hostData := s.hostData, freeCount := s.freeCount }

/-- One move of the host (R8). -/
def hostMove (m : HostMove) (s : State) : State :=
  match m with
  | .writeReg reg v => hostWrite reg v s
  | .readReg reg => hostRead reg s
  | .poke space a b => poke space a b s
  | .hardReset => hardReset s

end Sys2Proof.Machine
end

