-- ==== Sys2Proof/Machine/HostLoop.lean ====
section
/-! DEFINITION. The host's loop (R376): the boot sequence, then STEP after STEP, each answered by what its status asks for.  A
turn of the loop lays down the host's next moves; the run of R376 is the run of `step` from a state with a loop in `boot`. -/

namespace Sys2Proof.Machine

/-- Lay down the host's next moves, and what the loop goes on with. -/
def say (ms : List HostMove) (l : HostLoop) (s : State) : State := { s with host := ms, loop := some l }

/-- The loop makes no further move: the run is complete, or the host has nothing to go on with (R383, R389). -/
def loopEnd (ms : List HostMove) (l : HostLoop) (s : State) : State := say ms { l with stage := .over } s

/-- Step 3 of R376: STEP with the flush mode; the engine runs before the host's next move, which reads `STATUS`. -/
def stepMoves (l : HostLoop) : List HostMove :=
  [.writeReg 0x01 (l.flushMode.setWidth 64), .writeReg 0x00 0x03, .readReg 0x02]

/-- Bind an input slice (R26, R27). -/
def bindIn (c : Word × Word) : List HostMove := [.writeReg 0x04 (c.1.setWidth 64), .writeReg 0x05 (c.2.setWidth 64)]

/-- Bind an output slice (R28, R29). -/
def bindOut (c : Word × Word) : List HostMove := [.writeReg 0x06 (c.1.setWidth 64), .writeReg 0x07 (c.2.setWidth 64)]

/-- Go to step 3 of R376, after the moves `ms`. -/
def sayStep (ms : List HostMove) (l : HostLoop) (s : State) : State := say (ms ++ stepMoves l) { l with stage := .step } s

/-- The delivered bytes that have not been taken: those of the output slice below `NEXT_OUT` (R376). -/
def delivered (l : HostLoop) (s : State) : List Byte :=
  (List.range (s.nextOut - l.outFrom).toNat).filterMap (fun i => s.memOut.read (l.outFrom.toNat + i))

/-- Take the delivered output (R376). -/
def takeOutput (l : HostLoop) (s : State) : HostLoop :=
  { l with taken := l.taken ++ delivered l s, outFrom := s.nextOut }

/-- Step 2 of R376, then step 3. -/
def loopBind (l : HostLoop) (s : State) : State :=
  match l.inputs, l.outputs with
  | c :: ri, d :: ro => sayStep (bindIn c ++ bindOut d) { l with inputs := ri, outputs := ro, outFrom := d.1 } s
  | _, _ => loopEnd [] l s

/-- The answer to `OK` and `BUF_ERROR` (R376, R383): output space when `AVAIL_OUT = 0`, else input, and STEP again. -/
def loopSupply (l : HostLoop) (s : State) : State :=
  if s.availOut = 0 then
    match l.outputs with
    | d :: ro => sayStep (bindOut d) { l with outputs := ro, outFrom := d.1 } s
    | [] => loopEnd [] l s
  else
    match l.inputs with
    | c :: ri => sayStep (bindIn c) { l with inputs := ri } s
    | [] => loopEnd [] l s

/-- The answer to `NEED_DICT` (R376, R379). -/
def loopDict (l : HostLoop) (s : State) : State :=
  match l.dict with
  | some c =>
    say [.readReg 0x0B, .writeReg 0x0C (c.1.setWidth 64), .writeReg 0x0D (c.2.setWidth 64), .writeReg 0x00 0x04, .readReg 0x02]
      { l with stage := .setDict } s
  | none => loopEnd [.readReg 0x0B] l s

/-- The answer to a STEP's `DATA_ERROR` (R376). -/
def loopError (l : HostLoop) (s : State) : State :=
  if l.resync then say [.readReg 0x03, .writeReg 0x00 0x05, .readReg 0x02] { l with stage := .sync } s
  else loopEnd [.readReg 0x03, .writeReg 0x00 0x06] l s

/-- Step 4 of R376: the answer to the status of a STEP. -/
def loopStatus (l : HostLoop) (c : Byte) (s : State) : State :=
  if c = statusCode .ok ∨ c = statusCode .bufError then loopSupply (takeOutput l s) s
  else if c = statusCode .needDict then loopDict l s
  else if c = statusCode .streamEnd then loopEnd [.writeReg 0x00 (if l.again then 0x02 else 0x06)] (takeOutput l s) s
  else if c = statusCode .dataError then loopError (takeOutput l s) s
  else loopEnd [] l s

/-- The answer to the status of a SYNC: on `OK` step 3 again (R376); else the next input, in which the search goes on (R300), or
END when there is none (log 26). -/
def loopSync (l : HostLoop) (c : Byte) (s : State) : State :=
  if c = statusCode .ok then sayStep [] l s
  else if c = statusCode .streamError then loopEnd [] l s
  else
    match l.inputs with
    | d :: ri => say (bindIn d ++ [.writeReg 0x00 0x05, .readReg 0x02]) { l with inputs := ri } s
    | [] => loopEnd [.writeReg 0x00 0x06] l s

/-- A turn of the loop (R376): `STATUS.CODE` is what the host's last read returned. -/
def loopTurn (l : HostLoop) (s : State) : State :=
  let c : Byte := s.hostData.setWidth 8
  match l.stage with
  | .boot =>
    say [.writeReg 0x01 (l.windowBits.setWidth 64), .writeReg 0x00 0x01, .readReg 0x02] { l with stage := .init } s
  | .init => if c = statusCode .ok then loopBind l s else loopEnd [] l s
  | .step => loopStatus l c s
  | .setDict => if c = statusCode .ok then sayStep [] l s else loopEnd [] l s
  | .sync => loopSync l c s
  | .over => s

end Sys2Proof.Machine
end

