-- ==== Sys2Proof/Machine/Engine.lean ====
section
/-! DEFINITION. The two agents' turns (R8): a micro-step of the running STEP, the start of a command, a move of the host. -/

namespace Sys2Proof.Machine

/-- One micro-step of STEP (R9, R290): select, fetch, decode, execute.  A stop ends the STEP. -/
def microStep (s : State) : Host.Outcome State Fault Refusal :=
  match select s with
  | .micro m => runMicro m s
  | .element slot => settle (fetch slot s) (fun e t => exec (decode slot e t.bitb) t)

/-- The code in `CMD` starts its command, and `CMD` holds nothing afterwards (R22, R281). -/
def startCommand (c : Byte) (s : State) : Host.Outcome State Fault Refusal :=
  exec (decode .command Entry.invalid (c.setWidth 32)) { s with cmd := none }

/-- The host's turn: its next move; with none left, its loop's next turn; without a loop nothing, the idle engine waiting for
ever (R8, R376, R389). -/
def hostTurn (s : State) : State :=
  match s.host with
  | m :: r => hostMove m { s with host := r }
  | [] =>
    match s.loop with
    | some l => loopTurn l s
    | none => s

end Sys2Proof.Machine
end

