-- ==== Sys2Proof/Machine/Load.lean ====
section
/-! DEFINITION. Setting up a state so that the very next step fetches a given instruction. -/

namespace Sys2Proof.Machine

/-- Four bytes of input at the input cursor, least significant first (R76), and an empty accumulator. -/
def placeBits (bits : Word) (s : State) : State :=
  { s with
    memIn :=
      (((s.memIn.write s.nextIn.toNat (bits.setWidth 8)).write (s.nextIn + 1).toNat ((bits >>> 8).setWidth 8)).write
        (s.nextIn + 2).toNat ((bits >>> 16).setWidth 8)).write (s.nextIn + 3).toNat ((bits >>> 24).setWidth 8)
    availIn := 4, bitb := 0, bitk := 0 }

/-- The registers that make the engine's next micro-step read the element at `slot`, a symbol's entry being the only one of its
table. -/
def placeSlot (slot : Slot) (e : Entry) (s : State) : State :=
  match slot with
  | .command => s
  | .method => { s with mode := .method }
  | .flag => { s with mode := .flag }
  | .dict k => { s with mode := match k with | 0 => .dict4 | 1 => .dict3 | 2 => .dict2 | 3 => .dict1 }
  | .check k => { s with mode := match k with | 0 => .check4 | 1 => .check3 | 2 => .check2 | 3 => .check1 }
  | .header => { s with mode := .blocks, bmode := .type }
  | .align n => { s with mode := .blocks, bmode := .bdone, nowrap := false, bitk := BitVec.ofNat 6 n.toNat }
  | .lens => { s with mode := .blocks, bmode := .lens }
  | .stored => { s with mode := .blocks, bmode := .stored, left := 1, pend := 0 }
  | .table => { s with mode := .blocks, bmode := .table }
  | .btree => { s with mode := .blocks, bmode := .btree, index := 0, nclen := 1 }
  | .dtree => { s with mode := .blocks, bmode := .dtree, index := 0, nlen := 1, ndist := 0, ct := List.replicate 128 e }
  | .len => { s with mode := .blocks, bmode := .codes, cmode := .len, lt := [e], tptr := 0, tneed := 0 }
  | .lenext w => { s with mode := .blocks, bmode := .codes, cmode := .lenext, ext := w }
  | .dist => { s with mode := .blocks, bmode := .codes, cmode := .dist, dt := [e], tptr := 0, tneed := 0 }
  | .distext w => { s with mode := .blocks, bmode := .codes, cmode := .distext, ext := w }

/-- `s` with the encoded instruction where the next step fetches it: a host command is written to `CMD` of an idle engine; a
stream element stands in the input of a STEP that is running. -/
def placeCoded (c : Coded) (s : State) : State :=
  match c.slot with
  | .command => { s with busy := false, cmd := some (c.bits.setWidth 8) }
  | .align _ => { placeSlot c.slot c.entry (placeBits 0 s) with busy := true, bitb := c.bits }
  | _ => placeSlot c.slot c.entry { placeBits c.bits s with busy := true }

/-- `s` with the instruction a table word stands for placed; `s` itself for a word that stands for none. -/
def placeTableWord (s : State) (nbits w : Nat) : State :=
  match decodeTableWord nbits w with
  | some i => placeCoded (encode i) s
  | none => s

end Sys2Proof.Machine
end

