-- ==== Sys2Proof/Machine/Step.lean ====
section
/-! DEFINITION. One step of the machine. -/

namespace Sys2Proof.Machine

/-- One step: while `BUSY = 1` the engine runs and the host has no move (R86); a code in `CMD` starts its command (R22, R281);
else it is the host's turn (R8). -/
def step (s : State) : Host.Outcome State Fault Refusal :=
  if s.busy then microStep s
  else
    match s.cmd with
    | some c => startCommand c s
    | none => .next (hostTurn s)

/-- `s` with the instruction of a table word where the next step fetches it (Load.lean). -/
def State.withFetchWord (s : State) (nbits w : Nat) : State := placeTableWord s nbits w

end Sys2Proof.Machine
end

