-- ==== Sys2Proof/Safety.lean ====
section
/-! DEFINITION. What holds in every state a run can reach (R64, R65 and the register rules of 10_state.md), in the terms the
statements use. -/

namespace Sys2Proof.Machine

/-- The modes before the blocks: the block parser has not begun (R280). -/
def beforeBlocks (m : Mode) : Bool :=
  m = .method || m = .flag || m = .dict4 || m = .dict3 || m = .dict2 || m = .dict1 || m = .dict0

/-- Every entry that names a symbol or a sub-table consumes at least one bit (R168 to R171). -/
def tableLive (t : List Entry) : Bool := t.all (fun e => entryClass e.op = .invalid || 1 ≤ e.bits.toNat)

/-- The status codes a command can leave (R330); `MEM_ERROR` is never returned (R351). -/
def codeLegal (c : Byte) : Bool := c = 0 || c = 1 || c = 2 || c = 0xFE || c = 0xFD || c = 0xFB

/-- The memories are in their canonical form. -/
structure MemoryInv (s : State) : Prop where
  input : s.memIn.wf = true
  output : s.memOut.wf = true
  dictionary : s.memDict.wf = true
  window : winWf s.win = true

/-- The bit reader's invariants (R65), and the byte alignment of the stored length field (R82, R147). -/
structure BitInv (s : State) : Prop where
  noStale : s.bitb.toNat < 2 ^ s.bitk.toNat
  count : s.bitk.toNat ≤ 32
  lensAligned : s.mode = .blocks → s.bmode = .lens → s.bitk.toNat % 8 = 0

/-- The window's invariants (R61 to R64). -/
structure WindowInv (s : State) : Prop where
  pendHave : s.pend.toNat ≤ s.whave.toNat
  haveSize : s.whave.toNat ≤ wsize s
  write : s.wr.toNat < wsize s
  read : s.rd.toNat < wsize s
  cursors : (s.rd.toNat + s.pend.toNat) % wsize s = s.wr.toNat

/-- The window bits of an initialised stream are legal, and no larger than INIT allowed (R37). -/
structure SizeInv (s : State) : Prop where
  bits : s.own = true → 8 ≤ s.wbits.toNat ∧ s.wbits.toNat ≤ s.wbitsCfg.toNat
  declared : s.own = true → s.mode = .flag → s.methodr.toNat / 16 + 8 ≤ s.wbitsCfg.toNat

/-- The host-visible registers hold legal values (R25, R32, R330), `MARKER` is below the 4 that only a SYNC under way reaches (R40,
R300), and a running STEP has passed its entry checks (R288, R289). -/
structure HostInv (s : State) : Prop where
  message : s.msg.toNat ≤ 15
  status : codeLegal s.code = true
  sumLow : s.adler.toNat % 2 ^ 16 < 65521
  sumHigh : s.adler.toNat / 2 ^ 16 < 65521
  marker : s.marker.toNat ≤ 3
  running : s.busy = true → s.own = true ∧ s.inBound = true ∧ s.outBound = true ∧ inWraps s = false ∧ outWraps s = false

/-- The state registers agree (R209, R210, R238), and the counts they stand for are in range (R46 to R48). -/
structure ControlInv (s : State) : Prop where
  healthy : s.mode ≠ .bad → s.bmode ≠ .bbad ∧ s.cmode ≠ .badcode
  notBegun : beforeBlocks s.mode = true → s.bmode = .type
  stored : s.mode = .blocks → s.bmode = .stored → 1 ≤ s.left.toNat
  counts : s.mode = .blocks → s.bmode = .btree ∨ s.bmode = .dtree →
    257 ≤ s.nlen.toNat ∧ s.nlen.toNat ≤ 286 ∧ 1 ≤ s.ndist.toNat ∧ s.ndist.toNat ≤ 30 ∧
      4 ≤ s.nclen.toNat ∧ s.nclen.toNat ≤ 19
  indexCl : s.mode = .blocks → s.bmode = .btree → s.index.toNat ≤ s.nclen.toNat
  index : s.mode = .blocks → s.bmode = .dtree → s.index.toNat ≤ s.nlen.toNat + s.ndist.toNat

/-- The three tables. -/
structure TableInv (s : State) : Prop where
  lt : tableLive s.lt = true
  dt : tableLive s.dt = true
  ct : tableLive s.ct = true

/-- The machine's invariant. -/
structure Inv (s : State) : Prop where
  memory : MemoryInv s
  bits : BitInv s
  window : WindowInv s
  size : SizeInv s
  host : HostInv s
  control : ControlInv s
  tables : TableInv s

/-- The length set's Kraft sum in units of `2^-15`: what the used symbols take of the bit space (R163). -/
def kraftSum (lens : List Nat) : Nat := (lens.map (fun l => if l = 0 then 0 else 2 ^ (15 - l))).sum

/-- Every byte of the bound input slice can be read (R92). -/
def inputReadable (s : State) : Prop :=
  ∀ a, s.nextIn.toNat ≤ a → a < s.nextIn.toNat + s.availIn.toNat → ∃ b, s.memIn.read a = some b

/-- `k` bytes of a memory from address `a` on as one number, the byte at the lowest address least significant (R76). -/
def inputNumber (m : Memory) (a : Nat) : Nat → Nat
  | 0 => 0
  | k + 1 => inputNumber m a k + ((m.read (a + k)).getD 0).toNat * 2 ^ (8 * k)

/-- The state after `k` bytes of the input were pulled: they stand above the bits held, in the order of the input (R141, R142). -/
def afterPulls (k : Nat) (s : State) : State :=
  { s with
    bitb := s.bitb ||| (BitVec.ofNat 32 (inputNumber s.memIn s.nextIn.toNat k) <<< s.bitk.toNat)
    bitk := BitVec.ofNat 6 (s.bitk.toNat + 8 * k)
    nextIn := s.nextIn + BitVec.ofNat 32 k, availIn := s.availIn - BitVec.ofNat 32 k, totalIn := s.totalIn + BitVec.ofNat 64 k }

/-- The entry of a table at an index; one beyond the table is invalid (log 4). -/
def entryAt (t : List Entry) (i : Nat) : Entry := t.getD i Entry.invalid

/-- Replication (R178 (b)): two indices of a level that agree in the bits the entry at one of them consumes have the same entry. -/
def replicates (t : List Entry) (base width : Nat) : Prop :=
  ∀ i, i < 2 ^ width → ∀ j, j < 2 ^ width →
    i % 2 ^ (entryAt t (base + i)).bits.toNat = j % 2 ^ (entryAt t (base + i)).bits.toNat →
    entryAt t (base + j) = entryAt t (base + i)

/-- A table is one or two levels, as R178 has them: no entry consumes more bits than its level's index has (a), each level is
replicated (b), and an entry of a sub-table links no further (R170, R177). -/
structure TableLevels (t : List Entry) (root : Nat) : Prop where
  rootBits : ∀ i, i < 2 ^ root → (entryAt t i).bits.toNat ≤ root
  rootReplicates : replicates t 0 root
  subBits : ∀ i, i < 2 ^ root → ∀ w, entryClass (entryAt t i).op = .link w →
    ∀ j, j < 2 ^ w.toNat → (entryAt t ((entryAt t i).val.toNat + j)).bits.toNat ≤ w.toNat
  subReplicates : ∀ i, i < 2 ^ root → ∀ w, entryClass (entryAt t i).op = .link w →
    replicates t (entryAt t i).val.toNat w.toNat
  subLast : ∀ i, i < 2 ^ root → ∀ w, entryClass (entryAt t i).op = .link w →
    ∀ j, j < 2 ^ w.toNat → ∀ v, entryClass (entryAt t ((entryAt t i).val.toNat + j)).op ≠ .link v

/-- `TPTR` and `TNEED` name a level of the table: the root, or a sub-table that an entry of the root links to (R55, R177). -/
def namesLevel (t : List Entry) (root tptr tneed : Nat) : Prop :=
  (tptr = 0 ∧ tneed = root) ∨
  ∃ i w, i < 2 ^ root ∧ entryClass (entryAt t i).op = .link w ∧ tptr = (entryAt t i).val.toNat ∧ tneed = w.toNat

/-- The tables in force have the levels of R178, and a symbol being decoded is at one of them. -/
structure TablesInForce (s : State) : Prop where
  lt : TableLevels s.lt s.lbits.toNat
  dt : TableLevels s.dt s.dbits.toNat
  ct : TableLevels s.ct 7
  lenLevel : s.bmode = .codes → s.cmode = .len → namesLevel s.lt s.lbits.toNat s.tptr.toNat s.tneed.toNat
  distLevel : s.bmode = .codes → s.cmode = .dist → namesLevel s.dt s.dbits.toNat s.tptr.toNat s.tneed.toNat

/-- The bytes a memory holds from an address on are these (R73). -/
def holds (m : Memory) (a : Nat) (bytes : List Byte) : Prop :=
  ∀ i, i < bytes.length → m.read (a + i) = bytes[i]?

end Sys2Proof.Machine
end

