-- ==== Sys2Proof/Certificates/Slice0/Obligations.lean ====
section
/-! DEFINITION. The statements for the provers, in the order of the spec's files.  A statement about an element's effect has two
parts where both say something: what `exec` answers, for every state, and what a step of the running engine does, its fetch
included.  A next state written as an update of a state leaves every field that is not named as it was: that is its frame. -/

open Sys2Proof Sys2Proof.Machine

/-! ### The machine -/

/-- A step runs the decoded instruction (R8, R9, R22, R281, R290): a running engine selects, fetches, decodes and executes, a
fetch that stops ends the STEP; an idle engine with a code in `CMD` starts that command; an idle engine without is the host's.
The model's choices in it: one micro-step is one step (log 10, DEDUCED); the fetch pulls an element's bits and the meaning
consumes them (log 11, DESIGN CHOICE); the code leaves `CMD` in the step that starts the command (log 21, DEDUCED); the host's
turn is the next move of a list, or with none left a turn of its loop (logs 6 and 26, DESIGN CHOICE). -/
def Obligations.StepRunsDecodedInstruction : Prop :=
  (∀ (s t : State) (slot : Slot) (e : Entry) (i : Instr), s.busy = true → select s = .element slot →
      fetch slot s = .ok e t → decode slot e t.bitb = i → step s = exec i t) ∧
  (∀ (s t : State) (slot : Slot) (r : Stop), s.busy = true → select s = .element slot →
      fetch slot s = .stop r t → step s = .next (finish r t)) ∧
  (∀ (s : State) (m : Micro), s.busy = true → select s = .micro m → step s = runMicro m s) ∧
  (∀ (s : State) (c : Byte), s.busy = false → s.cmd = some c → step s = exec (decodeCommand c) { s with cmd := none }) ∧
  (∀ s : State, s.busy = false → s.cmd = none →
    (∀ m r, s.host = m :: r → step s = .next (hostMove m { s with host := r })) ∧
    (∀ l, s.host = [] → s.loop = some l → step s = .next (loopTurn l s)) ∧
    (s.host = [] → s.loop = none → step s = .next s))

/-- Words written out from the encodings of 30_encoding.md decode to the instructions they stand for. That the fixed codes
tell the reserved symbols' rows apart is the model's choice (log 15). -/
def Obligations.WordsDecodeAsSpecified : Prop :=
  -- R101: the command codes
  decode .command Entry.invalid 0x01 = .init ∧ decode .command Entry.invalid 0x06 = .endCmd ∧
  decode .command Entry.invalid 0x07 = .cmdIllegal 7 ∧
  -- R104, R105: CMF and FLG
  decode .method Entry.invalid 0x78 = .cmf 0x78 ∧ decode .flag Entry.invalid 0x9C = .flg 0x9C ∧
  -- R109: BFINAL 1, BTYPE 01; R151's first word
  decode .header Entry.invalid 0x4B = .blkFixed true ∧ decode .header Entry.invalid 0b101 = .blkDynamic true ∧
  decode .header Entry.invalid 0b000 = .blkStored false ∧ decode .header Entry.invalid 0b110 = .blkReserved false ∧
  -- R110: bytes 05 00 FA FF
  decode .lens Entry.invalid 0xFFFA0005 = .stlen 5 0xFFFA ∧
  -- R111: HCLEN 14, HDIST 0, HLIT 1
  decode .table Entry.invalid 0b11100000000001 = .counts 1 0 14 ∧
  -- R112
  decode .btree Entry.invalid 0b101 = .cll 5 ∧
  -- R113: a 3-bit code for symbol 16, then the 2 extra bits 10
  decode .dtree ⟨0x00, 3, 16⟩ 0b10011 = .clRep 3 2 ∧
  -- R121: the fixed code 10010001 of the literal 0x61, read as R222's example reads it
  decode .len ⟨0x00, 8, 0x61⟩ 0x089 = .lit 8 0x61 ∧
  -- R117, R118, R123: base entries
  decode .len ⟨0x15, 8, 227⟩ 0 = .len284 8 ∧ decode .dist ⟨0x1D, 5, 24577⟩ 0 = .dist29 5 ∧
  -- R121: the fixed codes 11000110 and 11110 of the reserved symbols 286 and 30
  decode .len ⟨0x40, 8, 0⟩ 0b01100011 = .llReserved286 ∧ decode .dist ⟨0x40, 5, 0⟩ 0b01111 = .dReserved30

/-- No bit of an encoding is dropped: decoding the encoding of a well-formed instruction gives it back. That the tags 0x1E and
0x1F encode T_BASE is the model's reading (log 27, DEDUCED). That the fixed codes tell the reserved symbols' rows apart is the
model's choice (log 15). -/
def Obligations.DecodeOfEncodeIsIdentity : Prop :=
  ∀ i : Instr, i.wf = true → decode (encode i).slot (encode i).entry (encode i).bits = i

/-- The decoder only ever answers well-formed instructions, for every entry and every bit pattern, at the widths the tables and
registers have (R113, R117, R118). -/
def Obligations.DecodedInstructionsAreWellFormed : Prop :=
  ∀ (slot : Slot) (e : Entry) (bits : Word),
    (slot = .dtree → e.bits.toNat ≤ 7) → (∀ w, slot = .lenext w → w.toNat ≤ 5) → (∀ w, slot = .distext w → w.toNat ≤ 13) →
    (decode slot e bits).wf = true

/-! ### The host's registers and reset -/

/-- The host's moves.  Every register number of R21: what a host write changes and what a host read returns; a reserved number's
write is ignored.  A byte the host stores in one of its memories (R70, R89), and its loop (R376): boot, bind, STEP, and the
answer to each status.  The model's choices in it: a write takes the low bits of a 64-bit value and a read is zero-extended
(log 18); a read of `CMD` or of a reserved number returns a free value that a counter numbers (log 3); a write to a read-only
register is ignored (log 7); the moves are steps of their own (log 6); what the loop does where R376 leaves it open (log 26). -/
def Obligations.HostRegisterFile : Prop :=
  ∀ (s : State) (v : BitVec 64),
    hostMove (.writeReg 0x00 v) s = { s with cmd := some (v.setWidth 8) } ∧
    hostMove (.writeReg 0x01 v) s = { s with arg := v.setWidth 8 } ∧
    hostMove (.writeReg 0x04 v) s = { s with nextIn := v.setWidth 32, inBound := true } ∧
    hostMove (.writeReg 0x05 v) s = { s with availIn := v.setWidth 32 } ∧
    hostMove (.writeReg 0x06 v) s = { s with nextOut := v.setWidth 32, outBound := true } ∧
    hostMove (.writeReg 0x07 v) s = { s with availOut := v.setWidth 32 } ∧
    hostMove (.writeReg 0x0C v) s = { s with dictPtr := v.setWidth 32 } ∧
    hostMove (.writeReg 0x0D v) s = { s with dictLen := v.setWidth 32 } ∧
    (∀ r : BitVec 8, r ∉ [0x00, 0x01, 0x04, 0x05, 0x06, 0x07, 0x0C, 0x0D] → hostMove (.writeReg r v) s = s) ∧
    hostMove (.readReg 0x01) s = { s with hostData := s.arg.setWidth 64 } ∧
    hostMove (.readReg 0x02) s =
      { s with hostData := BitVec.ofNat 64 ((if s.busy then 256 else 0) + s.code.toNat) } ∧
    hostMove (.readReg 0x03) s = { s with hostData := s.msg.setWidth 64 } ∧
    hostMove (.readReg 0x04) s = { s with hostData := s.nextIn.setWidth 64 } ∧
    hostMove (.readReg 0x05) s = { s with hostData := s.availIn.setWidth 64 } ∧
    hostMove (.readReg 0x06) s = { s with hostData := s.nextOut.setWidth 64 } ∧
    hostMove (.readReg 0x07) s = { s with hostData := s.availOut.setWidth 64 } ∧
    hostMove (.readReg 0x08) s = { s with hostData := s.totalIn } ∧
    hostMove (.readReg 0x09) s = { s with hostData := s.totalOut } ∧
    hostMove (.readReg 0x0A) s = { s with hostData := s.adler.setWidth 64 } ∧
    hostMove (.readReg 0x0B) s = { s with hostData := s.needw.setWidth 64 } ∧
    hostMove (.readReg 0x0C) s = { s with hostData := s.dictPtr.setWidth 64 } ∧
    hostMove (.readReg 0x0D) s = { s with hostData := s.dictLen.setWidth 64 } ∧
    (∀ r : BitVec 8, r = 0x00 ∨ 0x0E ≤ r.toNat →
      ∃ x, hostMove (.readReg r) s = { s with hostData := x, freeCount := s.freeCount + 1 }) ∧
    (∀ (a : Word) (b : Byte),
      (∃ m, hostMove (.poke .input a b) s = { s with memIn := m } ∧ m.read a.toNat = some b ∧
        ∀ x, x ≠ a.toNat → m.read x = s.memIn.read x) ∧
      (∃ m, hostMove (.poke .output a b) s = { s with memOut := m } ∧ m.read a.toNat = some b ∧
        ∀ x, x ≠ a.toNat → m.read x = s.memOut.read x) ∧
      (∃ m, hostMove (.poke .dictionary a b) s = { s with memDict := m } ∧ m.read a.toNat = some b ∧
        ∀ x, x ≠ a.toNat → m.read x = s.memDict.read x)) ∧
    (∀ l : HostLoop,
      let code : Byte := s.hostData.setWidth 8
      let run : List HostMove := [.writeReg 0x01 (l.flushMode.setWidth 64), .writeReg 0x00 0x03, .readReg 0x02]
      let input := fun c : Word × Word => [HostMove.writeReg 0x04 (c.1.setWidth 64), .writeReg 0x05 (c.2.setWidth 64)]
      let output := fun c : Word × Word => [HostMove.writeReg 0x06 (c.1.setWidth 64), .writeReg 0x07 (c.2.setWidth 64)]
      let then_ := fun (ms : List HostMove) (k : HostLoop) => { s with host := ms, loop := some k }
      let got := { l with taken := l.taken ++ delivered l s, outFrom := s.nextOut }
      (l.stage = .boot → loopTurn l s =
        then_ [.writeReg 0x01 (l.windowBits.setWidth 64), .writeReg 0x00 0x01, .readReg 0x02] { l with stage := .init }) ∧
      (l.stage = .init → code = 0x00 → ∀ c ri d ro, l.inputs = c :: ri → l.outputs = d :: ro → loopTurn l s =
        then_ (input c ++ output d ++ run) { l with stage := .step, inputs := ri, outputs := ro, outFrom := d.1 }) ∧
      (l.stage = .init → l.inputs = [] ∨ l.outputs = [] → loopTurn l s = then_ [] { l with stage := .over }) ∧
      (l.stage = .init → code ≠ 0x00 → loopTurn l s = then_ [] { l with stage := .over }) ∧
      (l.stage = .step → code = 0x00 ∨ code = 0xFB →
        (s.availOut = 0 → ∀ d ro, l.outputs = d :: ro →
          loopTurn l s = then_ (output d ++ run) { got with outputs := ro, outFrom := d.1 }) ∧
        (s.availOut = 0 → l.outputs = [] → loopTurn l s = then_ [] { got with stage := .over }) ∧
        (s.availOut ≠ 0 → ∀ c ri, l.inputs = c :: ri → loopTurn l s = then_ (input c ++ run) { got with inputs := ri }) ∧
        (s.availOut ≠ 0 → l.inputs = [] → loopTurn l s = then_ [] { got with stage := .over })) ∧
      (l.stage = .step → code = 0x02 →
        (∀ c, l.dict = some c → loopTurn l s =
          then_ [.readReg 0x0B, .writeReg 0x0C (c.1.setWidth 64), .writeReg 0x0D (c.2.setWidth 64), .writeReg 0x00 0x04,
            .readReg 0x02] { l with stage := .setDict }) ∧
        (l.dict = none → loopTurn l s = then_ [.readReg 0x0B] { l with stage := .over })) ∧
      (l.stage = .step → code = 0x01 → loopTurn l s =
        then_ [.writeReg 0x00 (if l.again then 0x02 else 0x06)] { got with stage := .over }) ∧
      (l.stage = .step → code = 0xFD →
        (l.resync = true → loopTurn l s =
          then_ [.readReg 0x03, .writeReg 0x00 0x05, .readReg 0x02] { got with stage := .sync }) ∧
        (l.resync = false → loopTurn l s = then_ [.readReg 0x03, .writeReg 0x00 0x06] { got with stage := .over })) ∧
      (l.stage = .step → code ∉ [0x00, 0xFB, 0x02, 0x01, 0xFD] → loopTurn l s = then_ [] { l with stage := .over }) ∧
      (l.stage = .sync → code = 0xFE → loopTurn l s = then_ [] { l with stage := .over }) ∧
      (l.stage = .setDict ∨ l.stage = .sync → code = 0x00 → loopTurn l s = then_ run { l with stage := .step }) ∧
      (l.stage = .setDict → code ≠ 0x00 → loopTurn l s = then_ [] { l with stage := .over }) ∧
      (l.stage = .sync → code ≠ 0x00 → code ≠ 0xFE →
        (∀ c ri, l.inputs = c :: ri →
          loopTurn l s = then_ (input c ++ [.writeReg 0x00 0x05, .readReg 0x02]) { l with inputs := ri }) ∧
        (l.inputs = [] → loopTurn l s = then_ [.writeReg 0x00 0x06] { l with stage := .over })) ∧
      (l.stage = .over → loopTurn l s = s))

/-- After hardware reset the engine is idle and owns no stream, and every command but INIT returns `STREAM_ERROR` and changes
nothing else (R370). -/
def Obligations.HardwareResetOwnsNothing : Prop :=
  State.reset.own = false ∧ State.reset.busy = false ∧
  (∀ s : State, (hostMove .hardReset s).own = false ∧ (hostMove .hardReset s).busy = false) ∧
  ∀ (s : State) (c : Byte), c ≠ 1 → s.own = false → s.busy = false → s.cmd = some c →
    step s = .next { s with cmd := none, code := 0xFE }

/-! ### The bit reader (40_bit_reader.md) -/

/-- `pull()` (R141): with no input it stops and changes nothing; else the next byte goes above the bits held.  The new
accumulator is the old one plus the byte at the place of bit `BITK`.  After the byte at the last address `NEXT_IN` is 0 by the
model's choice (log 25). -/
def Obligations.PullTakesOneByte : Prop :=
  (∀ s : State, s.availIn = 0 → pull s = .stop .needIn s) ∧
  (∀ (s : State) (b : Byte), s.availIn ≠ 0 → s.memIn.read s.nextIn.toNat = some b →
    s.bitb.toNat < 2 ^ s.bitk.toNat → s.bitk.toNat ≤ 24 →
    pull s = .ok ()
      { s with
        bitb := BitVec.ofNat 32 (s.bitb.toNat + b.toNat * 2 ^ s.bitk.toNat), bitk := BitVec.ofNat 6 (s.bitk.toNat + 8)
        nextIn := s.nextIn + 1, availIn := s.availIn - 1, totalIn := s.totalIn + 1 } ∧
    s.bitb.toNat + b.toNat * 2 ^ s.bitk.toNat < 2 ^ (s.bitk.toNat + 8))

/-- `need_bits(n)` (R142): it pulls the fewest bytes that reach `n` bits, and it stops exactly when the input has fewer.  The
bytes pulled are the input's next ones, each above the bits held before it; nothing else changes.  After the byte at the last
address `NEXT_IN` is 0, and bits pulled above the 32nd are lost, by the model's choice (logs 25 and 28). -/
def Obligations.NeedBitsPullsFewest : Prop :=
  ∀ (n : Nat) (s : State), n ≤ 32 → s.bitk.toNat ≤ 32 → inWraps s = false → inputReadable s →
    (n ≤ s.bitk.toNat → needBits n s = .ok () s) ∧
    (n ≤ s.bitk.toNat + 8 * s.availIn.toNat →
      ∃ k, k ≤ s.availIn.toNat ∧ needBits n s = .ok () (afterPulls k s) ∧ n ≤ s.bitk.toNat + 8 * k ∧
        (1 ≤ k → s.bitk.toNat + 8 * k < n + 8)) ∧
    (s.bitk.toNat + 8 * s.availIn.toNat < n →
      needBits n s = .stop .needIn (afterPulls s.availIn.toNat s) ∧ (afterPulls s.availIn.toNat s).availIn = 0) ∧
    (∀ k, s.bitk.toNat + 8 * k < 64 → k ≤ s.availIn.toNat →
      (afterPulls k s).bitk.toNat = s.bitk.toNat + 8 * k ∧ (afterPulls k s).availIn.toNat = s.availIn.toNat - k ∧
      (s.bitb.toNat < 2 ^ s.bitk.toNat → s.bitk.toNat + 8 * k ≤ 32 →
        (afterPulls k s).bitb.toNat =
          s.bitb.toNat + inputNumber s.memIn s.nextIn.toNat k * 2 ^ s.bitk.toNat))

/-- `consume(n)` drops the `n` lowest bits (R143), and `align()` those up to the byte boundary (R146): what is left is the
stream's bits from bit `n` on, with no stale bit above the count. -/
def Obligations.ConsumeDropsLowBits : Prop :=
  (∀ (n : Nat) (s : State), s.bitb.toNat < 2 ^ s.bitk.toNat → s.bitk.toNat ≤ 32 → n ≤ s.bitk.toNat →
    consume n s =
      { s with bitb := BitVec.ofNat 32 (s.bitb.toNat / 2 ^ n), bitk := BitVec.ofNat 6 (s.bitk.toNat - n) } ∧
    (consume n s).bitb.toNat < 2 ^ (s.bitk.toNat - n) ∧
    ∀ m, n + m ≤ s.bitk.toNat → peek m (consume n s) = s.bitb.toNat / 2 ^ n % 2 ^ m) ∧
  (∀ s : State, s.bitk.toNat ≤ 32 →
    alignBits s = consume (s.bitk.toNat % 8) s ∧ (alignBits s).bitk.toNat % 8 = 0 ∧
      s.bitk.toNat < (alignBits s).bitk.toNat + 8)

/-- `lookup(T, base, width)` (R176, R179): it answers the entry that the bits held select, at least as many bits held as the
entry consumes, after at most two pulls, and changes nothing but what a pull changes; it stops only when the input is empty.
Each pull happens only when the entry selected before it consumes more bits than are held, and takes the input's next byte. On
a replicated level the entry is the one that all the bits to come select, and a pull is never one too many. After the byte at
the last address `NEXT_IN` is 0 by the model's choice (log 25). An index beyond the table has the invalid entry by the model's
choice (log 4). -/
def Obligations.LookupPullsUntilHeld : Prop :=
  ∀ (tab : List Entry) (base width : Nat) (s : State), s.bitk.toNat ≤ 32 →
    (∀ (e : Entry) (t : State), lookup tab base width s = .ok e t →
      e = tab.getD (base + t.bitb.toNat % 2 ^ width) Entry.invalid ∧ e.bits.toNat ≤ t.bitk.toNat ∧
      t = { s with bitb := t.bitb, bitk := t.bitk, nextIn := t.nextIn, availIn := t.availIn, totalIn := t.totalIn } ∧
      (t = s ∨ t.bitk.toNat = s.bitk.toNat + 8 ∨ t.bitk.toNat = s.bitk.toNat + 16)) ∧
    (∀ (r : Stop) (t : State), lookup tab base width s = .stop r t →
      r = .needIn ∧ t.availIn = 0 ∧
      t = { s with bitb := t.bitb, bitk := t.bitk, nextIn := t.nextIn, availIn := t.availIn, totalIn := t.totalIn }) ∧
    ((tab.getD (base + s.bitb.toNat % 2 ^ width) Entry.invalid).bits.toNat ≤ s.bitk.toNat →
      lookup tab base width s = .ok (tab.getD (base + s.bitb.toNat % 2 ^ width) Entry.invalid) s) ∧
    let chosen := fun v : State => entryAt tab (base + v.bitb.toNat % 2 ^ width)
    (inWraps s = false → inputReadable s →
      ∃ k, k ≤ 2 ∧ k ≤ s.availIn.toNat ∧
        (∀ j, j < k → (afterPulls j s).bitk.toNat < (chosen (afterPulls j s)).bits.toNat) ∧
        ((lookup tab base width s = .ok (chosen (afterPulls k s)) (afterPulls k s) ∧
            (chosen (afterPulls k s)).bits.toNat ≤ (afterPulls k s).bitk.toNat) ∨
          (lookup tab base width s = .stop .needIn (afterPulls k s) ∧ k = s.availIn.toNat ∧
            (afterPulls k s).bitk.toNat < (chosen (afterPulls k s)).bits.toNat))) ∧
    (replicates tab base width → ∀ bits : Nat, bits % 2 ^ s.bitk.toNat = s.bitb.toNat →
      ((chosen s).bits.toNat ≤ s.bitk.toNat → entryAt tab (base + bits % 2 ^ width) = chosen s) ∧
      (s.bitk.toNat < (chosen s).bits.toNat → s.bitk.toNat < (entryAt tab (base + bits % 2 ^ width)).bits.toNat))

/-- No partial bits are lost at a suspension (R145, R149): let the model's fetch (log 11, DESIGN CHOICE) of any element stop
on the first part of an input for want of more; run again on the state it stopped in, with the rest of the input, it answers
what one fetch on the whole input answers. A code-length symbol's code and extra bits are one element (R202), whose entry is
looked up again: there the table is replicated, as R178 (b) says of every table that is built. -/
def Obligations.SuspendedFetchResumes : Prop :=
  ∀ (slot : Slot) (s u : State) (rest : Word), s.bitk.toNat ≤ 32 →
    (slot = .dtree → replicates s.ct 0 7) →
    s.availIn.toNat + rest.toNat < 2 ^ 32 →
    fetch slot s = .stop .needIn u →
    fetch slot { u with availIn := rest } = fetch slot { s with availIn := s.availIn + rest }

/-! ### Tables (41_huffman_tables.md) -/

/-- What `build` answers (R163 to R166): `empty` when no symbol is used; else `over` when the Kraft sum is above 1,
`incomplete` when it is below 1 and the set is not one 1-bit code, and a table in every other case. -/
def Obligations.BuildJudgesByKraftSum : Prop :=
  ∀ (lens : List Nat) (root : Nat) (kind : Kind), (∀ l ∈ lens, l ≤ 15) →
    ((∀ l ∈ lens, l = 0) → build lens root kind = .empty (List.replicate (2 ^ root) Entry.invalid)) ∧
    ((∃ l ∈ lens, l ≠ 0) →
      (2 ^ 15 < kraftSum lens → build lens root kind = .over) ∧
      (kraftSum lens < 2 ^ 15 → lens.filter (· ≠ 0) ≠ [1] → build lens root kind = .incomplete) ∧
      (kraftSum lens = 2 ^ 15 ∨ lens.filter (· ≠ 0) = [1] → ∃ t, build lens root kind = .ok t ∧ 2 ^ root ≤ t.length))

/-- A table decodes the canonical code (R122, R167 to R171, R178). The code: every used symbol once, in order, with its
length; `rev` puts the first bit lowest; a symbol's code is the first code of its length, counted on by the earlier symbols of
that length; an accepted set's code is prefix-free. The root: every index whose low bits are the code of a symbol that fits
holds that symbol's entry; one that begins no code, as only the single 1-bit code leaves any, is invalid with 1 bit. The sub-
tables: a code longer than the root is found by a link at its first `root` bits, which consumes these, and in the linked
level, as wide as the longest such code, by its other bits at every index that begins with them. Every level is replicated and
consumes no more bits than its index has (R178 (a), (b)). The entry of a symbol beyond its alphabet, as in no run, is the
model's choice (log 29). -/
def Obligations.RootTableDecodesCanonicalCode : Prop :=
  (∀ c n i : Nat, (rev c n).testBit i = (decide (i < n) && c.testBit (n - 1 - i))) ∧
  (∀ lens : List Nat, (∀ l ∈ lens, l ≤ 15) →
    (usedCodes lens).map (fun u => (u.sym, u.len)) =
      ((List.range lens.length).map (fun s => (s, lens.getD s 0))).filter (fun p => p.2 ≠ 0) ∧
    ∀ u ∈ usedCodes lens, u.rcode =
      rev ((lens.map (fun l => if l = 0 ∨ u.len ≤ l then 0 else 2 ^ (u.len - l))).sum + (lens.take u.sym).count u.len) u.len) ∧
  (∀ (lens : List Nat) (root : Nat) (kind : Kind) (t : List Entry), (∀ l ∈ lens, l ≤ 15) → 1 ≤ root →
    build lens root kind = .ok t →
    (∀ u ∈ usedCodes lens, ∀ v ∈ usedCodes lens, u.len ≤ v.len → v.rcode % 2 ^ u.len = u.rcode → u = v) ∧
    (∀ u ∈ usedCodes lens, u.len ≤ root → ∀ i, i < 2 ^ root → i % 2 ^ u.len = u.rcode →
      t[i]? = some (symbolEntry kind u.sym u.len)) ∧
    (∀ i, i < 2 ^ root → (∀ u ∈ usedCodes lens, i % 2 ^ min u.len root ≠ u.rcode % 2 ^ root) →
      t[i]? = some ⟨0x40, 1, 0⟩ ∧ lens.filter (· ≠ 0) = [1]) ∧
    (root ≤ 15 → ∀ u ∈ usedCodes lens, root < u.len → ∃ w base,
      t[u.rcode % 2 ^ root]? = some ⟨BitVec.ofNat 8 w, BitVec.ofNat 4 root, BitVec.ofNat 16 base⟩ ∧
      u.len - root ≤ w ∧ (∃ v ∈ usedCodes lens, v.rcode % 2 ^ root = u.rcode % 2 ^ root ∧ v.len = root + w) ∧
      2 ^ root ≤ base ∧ base + 2 ^ w ≤ t.length ∧ t.length < 2 ^ 16 ∧
      ∀ j, j < 2 ^ w → j % 2 ^ (u.len - root) = u.rcode / 2 ^ root →
        t[base + j]? = some (symbolEntry kind u.sym (u.len - root)))) ∧
  (∀ (lens : List Nat) (root : Nat) (kind : Kind) (t : List Entry), (∀ l ∈ lens, l ≤ 15) → 1 ≤ root → root ≤ 15 →
    (build lens root kind = .ok t ∨ build lens root kind = .empty t) → TableLevels t root)

/-- The fixed tables (R121, R173): the builds of the fixed code lengths, which are complete, 512 and 32 entries, and decode every
code of R121: the entry at a code's bits, first stream bit lowest, is the symbol's, the reserved symbols' being invalid. -/
def Obligations.FixedTablesDecodeFixedCodes : Prop :=
  let lengths := List.replicate 144 8 ++ List.replicate 112 9 ++ List.replicate 24 7 ++ List.replicate 8 8
  build lengths 9 .ll = .ok fixedLt ∧ build (List.replicate 32 5) 5 .d = .ok fixedDt ∧
  kraftSum lengths = 2 ^ 15 ∧ kraftSum (List.replicate 32 5) = 2 ^ 15 ∧
  fixedLt.length = 512 ∧ fixedDt.length = 32 ∧
  (∀ s < 144, fixedLt[rev (0x30 + s) 8]? = some ⟨0x00, 8, BitVec.ofNat 16 s⟩) ∧
  (∀ s < 112, fixedLt[rev (0x190 + s) 9]? = some ⟨0x00, 9, BitVec.ofNat 16 (144 + s)⟩) ∧
  fixedLt[rev 0 7]? = some ⟨0x20, 7, 0⟩ ∧
  (∀ r ∈ [(257, 3, 0), (258, 4, 0), (259, 5, 0), (260, 6, 0), (261, 7, 0), (262, 8, 0), (263, 9, 0), (264, 10, 0),
          (265, 11, 1), (266, 13, 1), (267, 15, 1), (268, 17, 1), (269, 19, 2), (270, 23, 2), (271, 27, 2), (272, 31,
          2), (273, 35, 3), (274, 43, 3), (275, 51, 3), (276, 59, 3), (277, 67, 4), (278, 83, 4), (279, 99, 4)],
    fixedLt[rev (r.1 - 256) 7]? = some ⟨BitVec.ofNat 8 (0x10 + r.2.2), 7, BitVec.ofNat 16 r.2.1⟩) ∧
  (∀ r ∈ [(280, 115, 4), (281, 131, 5), (282, 163, 5), (283, 195, 5), (284, 227, 5), (285, 258, 0)],
    fixedLt[rev (0xC0 + (r.1 - 280)) 8]? = some ⟨BitVec.ofNat 8 (0x10 + r.2.2), 8, BitVec.ofNat 16 r.2.1⟩) ∧
  (∀ s ∈ [286, 287], fixedLt[rev (0xC0 + (s - 280)) 8]? = some ⟨0x40, 8, 0⟩) ∧
  (∀ r ∈ [(0, 1, 0), (1, 2, 0), (2, 3, 0), (3, 4, 0), (4, 5, 1), (5, 7, 1), (6, 9, 2), (7, 13, 2), (8, 17, 3), (9, 25,
          3), (10, 33, 4), (11, 49, 4), (12, 65, 5), (13, 97, 5), (14, 129, 6), (15, 193, 6), (16, 257, 7), (17, 385,
          7), (18, 513, 8), (19, 769, 8), (20, 1025, 9), (21, 1537, 9), (22, 2049, 10), (23, 3073, 10), (24, 4097,
          11), (25, 6145, 11), (26, 8193, 12), (27, 12289, 12), (28, 16385, 13), (29, 24577, 13)],
    fixedDt[rev r.1 5]? = some ⟨BitVec.ofNat 8 (0x10 + r.2.2), 5, BitVec.ofNat 16 r.2.1⟩) ∧
  (∀ s ∈ [30, 31], fixedDt[rev s 5]? = some ⟨0x40, 5, 0⟩)

/-! ### Blocks (42_block_header.md) -/

/-- The block header (R191 to R195): three bits; type 3 raises error 4 and consumes nothing; else the bits are consumed, `LAST`
is written, and the type says what is set up. -/
def Obligations.BlockHeaderSelectsType : Prop :=
  (∀ (f : Bool) (s : State),
    exec (.blkStored f) s = .next { alignBits { consume 3 s with last := f } with bmode := .lens } ∧
    exec (.blkFixed f) s = .next
      { consume 3 s with last := f, lt := fixedLt, dt := fixedDt, lbits := 9, dbits := 5, bmode := .codes, cmode := .start } ∧
    exec (.blkDynamic f) s = .next { consume 3 s with last := f, bmode := .table } ∧
    exec (.blkReserved f) s = .next (raise 4 { s with bmode := .bbad })) ∧
  (∀ s : State, s.busy = true → s.mode = .blocks → s.bmode = .type →
    step s = settle (needBits 3 s) (fun _ t =>
      let final : Bool := t.bitb.toNat % 2 = 1
      if t.bitb.toNat / 2 % 4 = 3 then .next (raise 4 { t with bmode := .bbad })
      else if t.bitb.toNat / 2 % 4 = 0 then .next { alignBits { consume 3 t with last := final } with bmode := .lens }
      else if t.bitb.toNat / 2 % 4 = 1 then .next
        { consume 3 t with
          last := final, lt := fixedLt, dt := fixedDt, lbits := 9, dbits := 5, bmode := .codes, cmode := .start }
      else .next { consume 3 t with last := final, bmode := .table }))

/-- The stored length field (R196): 32 bits; error 5 unless the halves are complements; an empty block ends at once. -/
def Obligations.StoredLengthIsChecked : Prop :=
  (∀ (len nlen : BitVec 16) (s : State),
    (len.toNat + nlen.toNat ≠ 0xFFFF → exec (.stlen len nlen) s = .next (raise 5 { s with bmode := .bbad })) ∧
    (len.toNat + nlen.toNat = 0xFFFF →
      exec (.stlen len nlen) s = .next
        { consume 32 s with
          left := len, bmode := if len.toNat ≠ 0 then .stored else if s.last then .dry else .type })) ∧
  (∀ s : State, s.busy = true → s.mode = .blocks → s.bmode = .lens →
    step s = settle (needBits 32 s) (fun _ t =>
      exec (.stlen (BitVec.ofNat 16 t.bitb.toNat) (BitVec.ofNat 16 (t.bitb.toNat / 2 ^ 16))) t))

/-- A stored byte (R197): room first, then eight bits; the byte goes to the window and `LEFT` counts down. That `LEFT` counted
down from 0, as in no run, wraps is the model's choice (log 28). -/
def Obligations.StoredByteIsCopied : Prop :=
  (∀ (b : Byte) (s : State), s.pend.toNat ≠ wsize s →
    exec (.raw b) s = .next
      { consume 8 (winWrite b s) with
        left := s.left - 1
        bmode := if s.left = 1 then (if s.last then .dry else .type) else s.bmode }) ∧
  (∀ s : State, s.busy = true → s.mode = .blocks → s.bmode = .stored →
    step s = settle (room s) (fun _ t => settle (needBits 8 t) (fun _ u => exec (.raw (BitVec.ofNat 8 u.bitb.toNat)) u)))

/-- The counts of a dynamic block (R198): error 6 above 286 or 30 symbols; else the counts are written and `CLLENS` cleared. -/
def Obligations.DynamicCountsAreChecked : Prop :=
  (∀ (hlit hdist : BitVec 5) (hclen : BitVec 4) (s : State),
    ((29 < hlit.toNat ∨ 29 < hdist.toNat) →
      exec (.counts hlit hdist hclen) s = .next (raise 6 { s with bmode := .bbad })) ∧
    (hlit.toNat ≤ 29 → hdist.toNat ≤ 29 → ∃ t, exec (.counts hlit hdist hclen) s = .next t ∧
      t.nlen.toNat = hlit.toNat + 257 ∧ t.ndist.toNat = hdist.toNat + 1 ∧ t.nclen.toNat = hclen.toNat + 4 ∧
      (∀ i : Fin 19, t.cllens[i] = 0) ∧
      t = { consume 14 s with
            nlen := t.nlen, ndist := t.ndist, nclen := t.nclen, index := 0, cllens := t.cllens, bmode := .btree })) ∧
  (∀ s : State, s.busy = true → s.mode = .blocks → s.bmode = .table →
    step s = settle (needBits 14 s) (fun _ t =>
      exec (.counts (BitVec.ofNat 5 t.bitb.toNat) (BitVec.ofNat 5 (t.bitb.toNat / 2 ^ 5))
        (BitVec.ofNat 4 (t.bitb.toNat / 2 ^ 10))) t))

/-- A code-length-code length (R199): it goes to the place that `ORDER` gives `INDEX`, and to no other. That `INDEX` wraps
past its 9 bits, as in no run, is the model's choice (log 28). That nothing is stored when `INDEX` is above 18, as in no run,
is its choice too (log 29). -/
def Obligations.CodeLengthCodeLengthIsStored : Prop :=
  (∀ (l : BitVec 3) (s : State), ∃ t, exec (.cll l) s = .next t ∧
    (∀ i : Fin 19, t.cllens[i] =
      if i.val = [16, 17, 18, 0, 8, 7, 9, 6, 10, 5, 11, 4, 12, 3, 13, 2, 14, 1, 15].getD s.index.toNat 19 then l
      else s.cllens[i]) ∧
    t = { consume 3 s with cllens := t.cllens, index := s.index + 1 }) ∧
  (∀ s : State, s.busy = true → s.mode = .blocks → s.bmode = .btree → s.index.toNat < s.nclen.toNat →
    step s = settle (needBits 3 s) (fun _ t => exec (.cll (BitVec.ofNat 3 t.bitb.toNat)) t))

/-- The code-length symbols 0 to 15 (R201): the code is consumed, the length is stored at `INDEX`, and `INDEX` counts on. That
`INDEX` wraps past its 9 bits, as in no run, is the model's choice (log 28). That nothing is stored when `INDEX` is above 315
is its choice too (log 29). -/
def Obligations.CodeLengthSymbolsStoreLengths : Prop :=
  ∀ (n : BitVec 4) (s : State),
    ∀ p ∈ [(Instr.clLen0 n, 0), (.clLen1 n, 1), (.clLen2 n, 2), (.clLen3 n, 3), (.clLen4 n, 4), (.clLen5 n, 5),
           (.clLen6 n, 6), (.clLen7 n, 7), (.clLen8 n, 8), (.clLen9 n, 9), (.clLen10 n, 10), (.clLen11 n, 11),
           (.clLen12 n, 12), (.clLen13 n, 13), (.clLen14 n, 14), (.clLen15 n, 15)],
      ∃ t, exec p.1 s = .next t ∧
        (∀ i : Fin 316, t.lens[i] = if i.val = s.index.toNat then BitVec.ofNat 4 p.2 else s.lens[i]) ∧
        t = { consume n.toNat s with lens := t.lens, index := s.index + 1 }

/-- The repeats (R202 to R204): symbol 16 repeats the previous length, 17 and 18 write zeros; error 8, with nothing consumed, for
a repeat with no previous length or one that would pass `NLEN + NDIST`. -/
def Obligations.RepeatsStoreRunsOfLengths : Prop :=
  ∀ (n : BitVec 4) (s : State), s.nlen.toNat + s.ndist.toNat ≤ 316 →
    ∀ (i : Instr) (w j : Nat) (v : BitVec 4) (prev : Bool),
      ((∃ x : BitVec 2, i = .clRep n x ∧ w = n.toNat + 2 ∧ j = 3 + x.toNat ∧
          v = s.lens.toList.getD (s.index.toNat - 1) 0 ∧ prev = true) ∨
       (∃ x : BitVec 3, i = .clZrep3 n x ∧ w = n.toNat + 3 ∧ j = 3 + x.toNat ∧ v = 0 ∧ prev = false) ∨
       (∃ x : BitVec 7, i = .clZrep11 n x ∧ w = n.toNat + 7 ∧ j = 11 + x.toNat ∧ v = 0 ∧ prev = false)) →
      ((prev = true ∧ s.index.toNat = 0) ∨ s.nlen.toNat + s.ndist.toNat < s.index.toNat + j →
        exec i s = .next (raise 8 { s with bmode := .bbad })) ∧
      ((prev = true → 1 ≤ s.index.toNat) → s.index.toNat + j ≤ s.nlen.toNat + s.ndist.toNat →
        ∃ t, exec i s = .next t ∧ t.index.toNat = s.index.toNat + j ∧
          (∀ k : Fin 316, t.lens[k] = if s.index.toNat ≤ k.val ∧ k.val < s.index.toNat + j then v else s.lens[k]) ∧
          t = { consume w s with lens := t.lens, index := t.index })

/-- The whole `DTREE` decoding micro-step (R201 to R205, R180): look up, then act on the entry's class and value alone. What
`putLens`, `clRepeat` and `clZeros` do past `LENS[315]`, as in no run, is the model's choice (log 29). -/
def Obligations.CodeLengthStepFollowsEntry : Prop :=
  ∀ s : State, s.busy = true → s.mode = .blocks → s.bmode = .dtree → s.index.toNat < s.nlen.toNat + s.ndist.toNat →
    (∀ e ∈ s.ct, entryClass e.op = .lit → e.val.toNat ≤ 18) →
    step s = settle (lookup s.ct 0 7 s) (fun e t =>
      if entryClass e.op ≠ .lit then .next (raise 15 { t with bmode := .bbad })
      else if e.val.toNat ≤ 15 then .next (putLens e.bits.toNat 1 (BitVec.ofNat 4 e.val.toNat) t)
      else if e.val.toNat = 16 then
        settle (needBits (e.bits.toNat + 2) t) (fun _ u =>
          .next (clRepeat (e.bits.toNat + 2) (3 + u.bitb.toNat / 2 ^ e.bits.toNat % 4) u))
      else if e.val.toNat = 17 then
        settle (needBits (e.bits.toNat + 3) t) (fun _ u =>
          .next (clZeros (e.bits.toNat + 3) (3 + u.bitb.toNat / 2 ^ e.bits.toNat % 8) u))
      else
        settle (needBits (e.bits.toNat + 7) t) (fun _ u =>
          .next (clZeros (e.bits.toNat + 7) (11 + u.bitb.toNat / 2 ^ e.bits.toNat % 128) u)))

/-- The table builds (R200, R206): errors 7, 9 and 10, in this order for the two sets of a dynamic block; an empty distance
set is accepted. That the build is made also with `INDEX` above its count, and that a slice ends with `LENS`, both as in no
run, is the model's choice (log 29). -/
def Obligations.DynamicTablesAreBuilt : Prop :=
  (∀ s : State, s.busy = true → s.mode = .blocks → s.bmode = .btree → s.nclen.toNat ≤ s.index.toNat →
    (∀ t, build (s.cllens.toList.map BitVec.toNat) 7 .cl = .ok t →
      step s = .next { s with ct := t, index := 0, bmode := .dtree }) ∧
    ((∀ t, build (s.cllens.toList.map BitVec.toNat) 7 .cl ≠ .ok t) → step s = .next (raise 7 { s with bmode := .bbad }))) ∧
  (∀ s : State, s.busy = true → s.mode = .blocks → s.bmode = .dtree → s.nlen.toNat + s.ndist.toNat ≤ s.index.toNat →
    let ll := build ((s.lens.toList.map BitVec.toNat).take s.nlen.toNat) 9 .ll
    let d := build (((s.lens.toList.map BitVec.toNat).drop s.nlen.toNat).take s.ndist.toNat) 6 .d
    ((∀ t, ll ≠ .ok t) → step s = .next (raise 9 { s with bmode := .bbad })) ∧
    (∀ t, ll = .ok t → (d = .over ∨ d = .incomplete) → step s = .next (raise 10 { s with bmode := .bbad })) ∧
    (∀ t u, ll = .ok t → (d = .ok u ∨ d = .empty u) →
      step s = .next { s with lt := t, dt := u, lbits := 9, dbits := 6, bmode := .codes, cmode := .start }))

/-- The end of the blocks (R208, R295, R110): `DRY` drains the window; `BDONE` of a raw stream ends it; `BDONE` of a zlib stream
skips the padding, whatever its value, and copies the checksum.  That the row ALIGN is the element `BDONE` of a zlib stream
decodes, and what ALIGN does with another `BMODE`, are the model's reading (log 14, DEDUCED). -/
def Obligations.LastBlockDrainsAndEnds : Prop :=
  (∀ s : State, s.busy = true → s.mode = .blocks → s.bmode = .dry →
    step s = if (flush s).pend = 0 then .next { flush s with bmode := .bdone } else .next (finish .needOut (flush s))) ∧
  (∀ s : State, s.busy = true → s.mode = .blocks → s.bmode = .bdone →
    step s = .next (if s.nowrap then { s with mode := .done } else { alignBits s with wasw := s.adler, mode := .check4 })) ∧
  (∀ (n : BitVec 3) (pad : BitVec 7) (s : State),
    (s.bmode = .bdone → exec (.align n pad) s = .next { alignBits s with wasw := s.adler, mode := .check4 }) ∧
    (s.bmode ≠ .bdone → exec (.align n pad) s = .next { alignBits s with bmode := .lens }))

/-! ### Symbols (43_symbol_engine.md) -/

/-- Literals, the end of a block, and the 29 length symbols with the bases and extra bits of R117 (R223 to R225). -/
def Obligations.LiteralLengthSymbolsDecode : Prop :=
  ∀ (n : BitVec 4) (s : State),
    (∀ b : Byte, exec (.lit n b) s = .next { consume n.toNat s with litv := b, cmode := .lit }) ∧
    exec (.eob n) s = .next { consume n.toNat s with cmode := .wash } ∧
    ∀ p ∈ [(Instr.len257 n, 3, 0), (.len258 n, 4, 0), (.len259 n, 5, 0), (.len260 n, 6, 0), (.len261 n, 7, 0),
           (.len262 n, 8, 0), (.len263 n, 9, 0), (.len264 n, 10, 0), (.len265 n, 11, 1), (.len266 n, 13, 1),
           (.len267 n, 15, 1), (.len268 n, 17, 1), (.len269 n, 19, 2), (.len270 n, 23, 2), (.len271 n, 27, 2),
           (.len272 n, 31, 2), (.len273 n, 35, 3), (.len274 n, 43, 3), (.len275 n, 51, 3), (.len276 n, 59, 3),
           (.len277 n, 67, 4), (.len278 n, 83, 4), (.len279 n, 99, 4), (.len280 n, 115, 4), (.len281 n, 131, 5),
           (.len282 n, 163, 5), (.len283 n, 195, 5), (.len284 n, 227, 5), (.len285 n, 258, 0)],
      exec p.1 s = .next
        { consume n.toNat s with lenr := BitVec.ofNat 9 p.2.1, ext := BitVec.ofNat 4 p.2.2, cmode := .lenext }

/-- The 30 distance symbols with the bases and extra bits of R118 (R230). -/
def Obligations.DistanceSymbolsDecode : Prop :=
  ∀ (n : BitVec 4) (s : State),
    ∀ p ∈ [(Instr.dist0 n, 1, 0), (.dist1 n, 2, 0), (.dist2 n, 3, 0), (.dist3 n, 4, 0), (.dist4 n, 5, 1), (.dist5 n, 7, 1),
           (.dist6 n, 9, 2), (.dist7 n, 13, 2), (.dist8 n, 17, 3), (.dist9 n, 25, 3), (.dist10 n, 33, 4),
           (.dist11 n, 49, 4), (.dist12 n, 65, 5), (.dist13 n, 97, 5), (.dist14 n, 129, 6), (.dist15 n, 193, 6),
           (.dist16 n, 257, 7), (.dist17 n, 385, 7), (.dist18 n, 513, 8), (.dist19 n, 769, 8), (.dist20 n, 1025, 9),
           (.dist21 n, 1537, 9), (.dist22 n, 2049, 10), (.dist23 n, 3073, 10), (.dist24 n, 4097, 11),
           (.dist25 n, 6145, 11), (.dist26 n, 8193, 12), (.dist27 n, 12289, 12), (.dist28 n, 16385, 13),
           (.dist29 n, 24577, 13)],
      exec p.1 s = .next
        { consume n.toNat s with distr := BitVec.ofNat 16 p.2.1, ext := BitVec.ofNat 4 p.2.2, cmode := .distext }

/-- Bit patterns with no code, and the reserved symbols (R205, R227, R232): errors 15, 11 and 12, nothing consumed. -/
def Obligations.CodelessPatternsRaise : Prop :=
  ∀ (n : BitVec 4) (s : State),
    exec (.clInvalid n) s = .next (raise 15 { s with bmode := .bbad }) ∧
    (∀ i ∈ [Instr.llReserved286, .llReserved287, .llInvalid n],
      exec i s = .next (raise 11 { s with cmode := .badcode, bmode := .bbad })) ∧
    (∀ i ∈ [Instr.dReserved30, .dReserved31, .dInvalid n],
      exec i s = .next (raise 12 { s with cmode := .badcode, bmode := .bbad }))

/-- Table entries taken by their class (R174, R177, R180): what each `TENTRY` row does in `LEN`, in `DIST` and in `DTREE`.
T_BASE with 14 or 15 extra bits is among them by the model's reading of the tags 0x1E and 0x1F (log 27, DEDUCED), and that
`LENR` keeps the low 9 bits of a larger base is its choice (log 28). -/
def Obligations.TableEntriesActByClass : Prop :=
  (∀ (s : State) (w x n : BitVec 4) (v : BitVec 16) (op : BitVec 8), s.bmode = .codes → s.cmode = .len →
    exec (.tLit n v) s = .next { consume n.toNat s with litv := v.setWidth 8, cmode := .lit } ∧
    exec (.tLink w n v) s = .next { consume n.toNat s with tptr := v, tneed := w } ∧
    exec (.tBase x n v) s = .next { consume n.toNat s with lenr := v.setWidth 9, ext := x, cmode := .lenext } ∧
    exec (.tEob n v) s = .next { consume n.toNat s with cmode := .wash } ∧
    exec (.tInvalid op n v) s = .next (raise 11 { s with cmode := .badcode, bmode := .bbad })) ∧
  (∀ (s : State) (w x n : BitVec 4) (v : BitVec 16) (op : BitVec 8), s.bmode = .codes → s.cmode = .dist →
    exec (.tLink w n v) s = .next { consume n.toNat s with tptr := v, tneed := w } ∧
    exec (.tBase x n v) s = .next { consume n.toNat s with distr := v, ext := x, cmode := .distext } ∧
    ∀ i ∈ [Instr.tLit n v, .tEob n v, .tInvalid op n v],
      exec i s = .next (raise 12 { s with cmode := .badcode, bmode := .bbad })) ∧
  (∀ (s : State) (w x n : BitVec 4) (v : BitVec 16) (op : BitVec 8), s.bmode = .dtree →
    (v.toNat ≤ 15 → exec (.tLit n v) s = .next (putLens n.toNat 1 (v.setWidth 4) s)) ∧
    ∀ i ∈ [Instr.tLink w n v, .tBase x n v, .tEob n v, .tInvalid op n v],
      exec i s = .next (raise 15 { s with bmode := .bbad }))

/-- The whole `LEN` and `DIST` micro-steps (R222 to R227, R229 to R232): look up, then act on the entry's class alone. The
symbol rows of the opcode table say the same as the entry's three fields. That the tags 0x1E and 0x1F are BASE is the model's
reading (log 27, DEDUCED), and that `LENR` keeps the low 9 bits of a larger base is its choice (log 28). -/
def Obligations.SymbolStepsFollowEntry : Prop :=
  (∀ s : State, s.busy = true → s.mode = .blocks → s.bmode = .codes → s.cmode = .len →
    step s = settle (lookup s.lt s.tptr.toNat s.tneed.toNat s) (fun e t =>
      match entryClass e.op with
      | .lit => .next { consume e.bits.toNat t with litv := e.val.setWidth 8, cmode := .lit }
      | .eob => .next { consume e.bits.toNat t with cmode := .wash }
      | .base x => .next { consume e.bits.toNat t with lenr := e.val.setWidth 9, ext := x, cmode := .lenext }
      | .link w => .next { consume e.bits.toNat t with tptr := e.val, tneed := w }
      | .invalid => .next (raise 11 { t with cmode := .badcode, bmode := .bbad }))) ∧
  (∀ s : State, s.busy = true → s.mode = .blocks → s.bmode = .codes → s.cmode = .dist →
    step s = settle (lookup s.dt s.tptr.toNat s.tneed.toNat s) (fun e t =>
      match entryClass e.op with
      | .base x => .next { consume e.bits.toNat t with distr := e.val, ext := x, cmode := .distext }
      | .link w => .next { consume e.bits.toNat t with tptr := e.val, tneed := w }
      | .lit => .next (raise 12 { t with cmode := .badcode, bmode := .bbad })
      | .eob => .next (raise 12 { t with cmode := .badcode, bmode := .bbad })
      | .invalid => .next (raise 12 { t with cmode := .badcode, bmode := .bbad })))

/-- Extra bits (R228, R233): they are added to the base; a length goes on to its distance, a distance to the copy. That a
register keeps the low bits of a sum above its width, which no run reaches, is the model's choice (log 28). -/
def Obligations.ExtraBitsAddToBase : Prop :=
  (∀ (w : BitVec 4) (x : BitVec 15) (s : State),
    exec (.lenExtra w x) s = .next
      { consume w.toNat s with
        lenr := BitVec.ofNat 9 (s.lenr.toNat + x.toNat), tptr := 0, tneed := s.dbits, cmode := .dist } ∧
    exec (.distExtra w x) s = .next
      { consume w.toNat s with distr := BitVec.ofNat 16 (s.distr.toNat + x.toNat), cmode := .copy }) ∧
  (∀ s : State, s.busy = true → s.mode = .blocks → s.bmode = .codes →
    (s.cmode = .lenext → step s = settle (needBits s.ext.toNat s) (fun _ t =>
      exec (.lenExtra s.ext (BitVec.ofNat 15 (t.bitb.toNat % 2 ^ s.ext.toNat))) t)) ∧
    (s.cmode = .distext → step s = settle (needBits s.ext.toNat s) (fun _ t =>
      exec (.distExtra s.ext (BitVec.ofNat 15 (t.bitb.toNat % 2 ^ s.ext.toNat))) t)))

/-- The micro-steps of the symbol engine that read no bits (R221, R235 to R237): set up a symbol, write a literal, drain at a
block's end, hand back to the block parser. -/
def Obligations.SymbolEngineInternalSteps : Prop :=
  ∀ s : State, s.busy = true → s.mode = .blocks → s.bmode = .codes →
    (s.cmode = .start → step s = .next { s with tptr := 0, tneed := s.lbits, cmode := .len }) ∧
    (s.cmode = .lit → step s = settle (room s) (fun _ t => .next { winWrite s.litv t with cmode := .start })) ∧
    (s.cmode = .wash →
      step s = if (flush s).pend = 0 then .next { flush s with cmode := .blockEnd } else .next (finish .needOut (flush s))) ∧
    (s.cmode = .blockEnd → step s = .next { s with bmode := if s.last then .dry else .type })

/-- One byte of a back-reference (R234): error 13 when the distance passes the valid history, before room is asked for; else the
byte `DISTR` back is written again and `LENR` counts down. -/
def Obligations.CopyStepRepeatsHistory : Prop :=
  ∀ s : State, s.busy = true → s.mode = .blocks → s.bmode = .codes → s.cmode = .copy →
    (s.whave.toNat < s.distr.toNat → step s = .next (raise 13 { s with cmode := .badcode, bmode := .bbad })) ∧
    (s.distr.toNat ≤ s.whave.toNat → s.lenr = 0 → step s = .next { s with cmode := .start }) ∧
    (s.distr.toNat ≤ s.whave.toNat → s.lenr ≠ 0 →
      step s = settle (room s) (fun _ t =>
        .next { winWrite (winRead s.distr.toNat t) t with
                lenr := s.lenr - 1, cmode := if s.lenr = 1 then .start else .copy }))

/-- One match, end to end (R234, R239): from `COPY` with room for the whole match, `length` micro-steps write the LZ77
back-reference.  The `k`-th byte written is the byte that stood `distance - k mod distance` back, so a match longer than its
distance repeats it; nothing but the window, its cursor and counts, `LENR` and `CMODE` changes. -/
def Obligations.MatchWritesBackReference : Prop :=
  ∀ s : State, Inv s → s.busy = true → s.mode = .blocks → s.bmode = .codes → s.cmode = .copy →
    1 ≤ s.lenr.toNat → 1 ≤ s.distr.toNat → s.distr.toNat ≤ s.whave.toNat →
    s.pend.toNat + s.lenr.toNat ≤ wsize s →
    ∃ t, Host.Core.run Sys2Proof.core s.lenr.toNat s = .next t ∧
      (∀ k, k < s.lenr.toNat → winRead (s.lenr.toNat - k) t = winRead (s.distr.toNat - k % s.distr.toNat) s) ∧
      t.wr.toNat = (s.wr.toNat + s.lenr.toNat) % wsize s ∧
      t.pend.toNat = s.pend.toNat + s.lenr.toNat ∧
      t.whave.toNat = min (s.whave.toNat + s.lenr.toNat) (wsize s) ∧
      t = { s with win := t.win, wr := t.wr, pend := t.pend, whave := t.whave, lenr := 0, cmode := .start }

/-! ### The window and the checksum (44_window.md, 45_adler32.md) -/

/-- `win_write` and `win_read` (R252, R254): the byte written is then one back, every other valid byte one further back, and the
cursor and counts move as the rule says. -/
def Obligations.WindowKeepsHistory : Prop :=
  ∀ (s : State) (b : Byte), WindowInv s → winWf s.win = true → s.pend.toNat < wsize s →
    winRead 1 (winWrite b s) = b ∧
    (∀ d, 1 ≤ d → d < wsize s → winRead (d + 1) (winWrite b s) = winRead d s) ∧
    (winWrite b s).wr.toNat = (s.wr.toNat + 1) % wsize s ∧
    (winWrite b s).pend.toNat = s.pend.toNat + 1 ∧
    (winWrite b s).whave.toNat = min (s.whave.toNat + 1) (wsize s) ∧
    (∀ i, i ≠ s.wr.toNat → winAt (winWrite b s).win i = winAt s.win i) ∧
    winWrite b s =
      { s with win := (winWrite b s).win, wr := (winWrite b s).wr, pend := (winWrite b s).pend, whave := (winWrite b s).whave }

/-- `room()` (R253): no flush unless the window is full of pending bytes; a stop only when the output takes nothing. -/
def Obligations.RoomFreesOneByte : Prop :=
  ∀ s : State, WindowInv s →
    (s.pend.toNat < wsize s → room s = .ok () s) ∧
    (s.pend.toNat = wsize s → s.availOut ≠ 0 → room s = .ok () (flush s) ∧ (flush s).pend.toNat < wsize s) ∧
    (s.pend.toNat = wsize s → s.availOut = 0 → room s = .stop .needOut s)

/-- `flush()` (R255): the pending bytes that fit go out in the order they were written, each folded into `ADLER`; no other address
of the output changes, nor any other register.  After the byte at the last address `NEXT_OUT` is 0 by the model's choice
(log 25). -/
def Obligations.FlushDeliversInOrder : Prop :=
  ∀ s : State, WindowInv s → outWraps s = false →
    let k := min s.pend.toNat s.availOut.toNat
    let byte := fun i => winAt s.win ((s.rd.toNat + i) % wsize s)
    let t := flush s
    (∀ i, i < k → t.memOut.read (s.nextOut.toNat + i) = some (byte i)) ∧
    (∀ a, a < s.nextOut.toNat ∨ s.nextOut.toNat + k ≤ a → t.memOut.read a = s.memOut.read a) ∧
    t.adler = adlerOf s.adler ((List.range k).map byte) ∧
    t.rd.toNat = (s.rd.toNat + k) % wsize s ∧
    t.nextOut = s.nextOut + BitVec.ofNat 32 k ∧
    t.availOut.toNat = s.availOut.toNat - k ∧
    t.totalOut = s.totalOut + BitVec.ofNat 64 k ∧
    t.pend.toNat = s.pend.toNat - k ∧
    t = { s with memOut := t.memOut, adler := t.adler, rd := t.rd, nextOut := t.nextOut, availOut := t.availOut,
                 totalOut := t.totalOut, pend := t.pend }

/-- The Adler-32 of a byte sequence has the closed form of R272, in both halves. -/
def Obligations.AdlerHasClosedForm : Prop :=
  ∀ bytes : List Byte,
    (adlerOf 1 bytes).toNat % 2 ^ 16 = (1 + (bytes.map BitVec.toNat).sum) % 65521 ∧
    (adlerOf 1 bytes).toNat / 2 ^ 16 =
      (bytes.length + ((List.range bytes.length).map (fun i => (bytes.length - i) * (bytes.getD i 0).toNat)).sum) % 65521

/-! ### Fatal errors and the end of a STEP (60_exceptions.md, 46_stream_control.md) -/

/-- `raise E(id)` (R18, R331): `MSG` holds the cause, `MODE` is `BAD`, `MARKER` is 0, the STEP ends through the closing `flush()`
with `DATA_ERROR`; nothing else is written: no bit is consumed, and every working register keeps its value. -/
def Obligations.RaiseSavesCauseOnly : Prop :=
  ∀ (id : Nat) (s : State),
    raise id s = { flush s with
      msg := BitVec.ofNat 8 id, mode := .bad, marker := 0, code := 0xFD, busy := false } ∧
    (raise id s).bitb = s.bitb ∧ (raise id s).bitk = s.bitk ∧ (raise id s).win = s.win ∧ (raise id s).wr = s.wr ∧
    (raise id s).whave = s.whave ∧ (raise id s).bmode = s.bmode ∧ (raise id s).cmode = s.cmode

/-- The status of a STEP that stops (R290, R301, R302): `OK` or `BUF_ERROR` by progress for a stop for input or room, where
progress counts what the closing `flush()` delivers; and whatever ended a STEP, nothing is pending then or the output is full
(R258). -/
def Obligations.StoppedStepReportsStatus : Prop :=
  (∀ (r : Stop) (s : State),
    finish r s = { flush s with busy := false, code := (finish r s).code } ∧
    (finish r s).code = (match r with
      | .finished => 0x01
      | .err => 0xFD
      | .dict => 0x02
      | _ => if s.availIn = s.entryIn ∧ (flush s).availOut = s.entryOut then 0xFB else 0x00)) ∧
  (∀ s t : State, s.busy = true → step s = .next t → t.busy = false → t.pend = 0 ∨ t.availOut = 0)

/-! ### The wrapper (46_stream_control.md) -/

/-- The method byte (R291): error 1 before error 2, nothing consumed by either; else it is kept in `METHODR`. -/
def Obligations.MethodByteIsChecked : Prop :=
  (∀ (c : Byte) (s : State),
    (c.toNat % 16 ≠ 8 → exec (.cmf c) s = .next (raise 1 s)) ∧
    (c.toNat % 16 = 8 → s.wbitsCfg.toNat < c.toNat / 16 + 8 → exec (.cmf c) s = .next (raise 2 s)) ∧
    (c.toNat % 16 = 8 → c.toNat / 16 + 8 ≤ s.wbitsCfg.toNat →
      exec (.cmf c) s = .next { consume 8 s with methodr := c, mode := .flag })) ∧
  (∀ s : State, s.busy = true → s.mode = .method →
    step s = settle (needBits 8 s) (fun _ t => exec (.cmf (BitVec.ofNat 8 t.bitb.toNat)) t))

/-- The flag byte (R292): error 3 unless the header check holds; else the declared window size is in force, the window is
empty, and bit 5 says whether a dictionary id follows. That `WBITS` keeps the low 4 bits of window bits above 15, as in no
run, is the model's choice (log 28). -/
def Obligations.FlagByteIsChecked : Prop :=
  (∀ (f : Byte) (s : State),
    ((s.methodr.toNat * 256 + f.toNat) % 31 ≠ 0 → exec (.flg f) s = .next (raise 3 s)) ∧
    ((s.methodr.toNat * 256 + f.toNat) % 31 = 0 →
      exec (.flg f) s = .next
        { consume 8 s with
          wbits := BitVec.ofNat 4 (s.methodr.toNat / 16 + 8), wr := 0, rd := 0, pend := 0, whave := 0
          mode := if f.toNat / 32 % 2 = 1 then .dict4 else .blocks })) ∧
  (∀ s : State, s.busy = true → s.mode = .flag →
    step s = settle (needBits 8 s) (fun _ t => exec (.flg (BitVec.ofNat 8 t.bitb.toNat)) t))

/-- The dictionary id (R293): four bytes, most significant first, or-ed into `NEEDW`. -/
def Obligations.DictionaryIdIsAssembled : Prop :=
  (∀ (b : Byte) (s : State),
    exec (.dictid 0 b) s = .next { consume 8 s with needw := b.setWidth 32 <<< 24, mode := .dict3 } ∧
    exec (.dictid 1 b) s = .next { consume 8 s with needw := s.needw ||| (b.setWidth 32 <<< 16), mode := .dict2 } ∧
    exec (.dictid 2 b) s = .next { consume 8 s with needw := s.needw ||| (b.setWidth 32 <<< 8), mode := .dict1 } ∧
    exec (.dictid 3 b) s = .next { consume 8 s with needw := s.needw ||| b.setWidth 32, mode := .dict0 }) ∧
  (∀ s : State, s.busy = true → ∀ p ∈ [(Mode.dict4, (0 : Fin 4)), (.dict3, 1), (.dict2, 2), (.dict1, 3)], s.mode = p.1 →
    step s = settle (needBits 8 s) (fun _ t => exec (.dictid p.2 (BitVec.ofNat 8 t.bitb.toNat)) t))

/-- The trailer (R296): four bytes, most significant first; error 14 at the last when the word is not `WASW`, its byte not
consumed and `NEEDW` not written. -/
def Obligations.TrailerIsCompared : Prop :=
  (∀ (b : Byte) (s : State),
    exec (.adler32 0 b) s = .next { consume 8 s with needw := b.setWidth 32 <<< 24, mode := .check3 } ∧
    exec (.adler32 1 b) s = .next { consume 8 s with needw := s.needw ||| (b.setWidth 32 <<< 16), mode := .check2 } ∧
    exec (.adler32 2 b) s = .next { consume 8 s with needw := s.needw ||| (b.setWidth 32 <<< 8), mode := .check1 } ∧
    (s.needw ||| b.setWidth 32 ≠ s.wasw → exec (.adler32 3 b) s = .next (raise 14 s)) ∧
    (s.needw ||| b.setWidth 32 = s.wasw →
      exec (.adler32 3 b) s = .next { consume 8 s with needw := s.wasw, mode := .done })) ∧
  (∀ s : State, s.busy = true → ∀ p ∈ [(Mode.check4, (0 : Fin 4)), (.check3, 1), (.check2, 2), (.check1, 3)], s.mode = p.1 →
    step s = settle (needBits 8 s) (fun _ t => exec (.adler32 p.2 (BitVec.ofNat 8 t.bitb.toNat)) t))

/-- The modes that stop at once (R294, R298, R299). -/
def Obligations.TerminalModesStop : Prop :=
  ∀ s : State, s.busy = true →
    (s.mode = .dict0 → step s = .next { flush s with busy := false, code := 0x02 }) ∧
    (s.mode = .done → step s = .next { flush s with busy := false, code := 0x01 }) ∧
    (s.mode = .bad → step s = .next { flush s with busy := false, code := 0xFD })

/-! ### The host's commands (46_stream_control.md) -/

/-- Commands that are refused outright (R101, R281, R282): a code that is no command, and every command but INIT on a stream that
is not owned, answer `STREAM_ERROR`, and nothing else changes. -/
def Obligations.MisusedCommandsAreRefused : Prop :=
  (∀ (c : Byte) (s : State), c = 0 ∨ 7 ≤ c.toNat →
    exec (.cmdIllegal c) s = .next { s with code := 0xFE } ∧
    (s.busy = false → s.cmd = some c → step s = .next { s with cmd := none, code := 0xFE })) ∧
  (∀ s : State, s.own = false → ∀ i ∈ [Instr.reset, .stepCmd, .setDict, .sync, .endCmd],
    exec i s = .next { s with code := 0xFE })

/-- INIT (R102, R283, R284): 8 to 15 select the zlib wrapper, -15 to -8 raw blocks; every other argument is refused and nothing
but the status changes.  No ownership check. -/
def Obligations.InitSelectsWrapperAndWindow : Prop :=
  ∀ s : State,
    (¬(8 ≤ s.arg.toInt ∧ s.arg.toInt ≤ 15) → ¬(-15 ≤ s.arg.toInt ∧ s.arg.toInt ≤ -8) →
      exec .init s = .next { s with code := 0xFE }) ∧
    ((8 ≤ s.arg.toInt ∧ s.arg.toInt ≤ 15) ∨ (-15 ≤ s.arg.toInt ∧ s.arg.toInt ≤ -8) →
      exec .init s = .next
        { s with
          own := true, nowrap := decide (s.arg.toInt < 0)
          wbitsCfg := BitVec.ofNat 4 s.arg.toInt.natAbs, wbits := BitVec.ofNat 4 s.arg.toInt.natAbs
          mode := if s.arg.toInt < 0 then .blocks else .method
          availIn := 0, availOut := 0, inBound := false, outBound := false
          totalIn := 0, totalOut := 0, msg := 0, adler := 1
          marker := 0, needw := 0, wasw := 0, methodr := 0, flushr := 0
          bitb := 0, bitk := 0, bmode := .type, last := false, left := 0, index := 0, cmode := .start
          wr := 0, rd := 0, pend := 0, whave := 0, code := 0 })

/-- RESET keeps what INIT chose and the bound slices (R284, R285); END only gives the stream up (R286). -/
def Obligations.ResetKeepsConfigurationEndReleases : Prop :=
  ∀ s : State, s.own = true →
    exec .reset s = .next
      { s with
        wbits := s.wbitsCfg, mode := if s.nowrap then .blocks else .method
        totalIn := 0, totalOut := 0, msg := 0, adler := 1
        marker := 0, needw := 0, wasw := 0, methodr := 0, flushr := 0
        bitb := 0, bitk := 0, bmode := .type, last := false, left := 0, index := 0, cmode := .start
        wr := 0, rd := 0, pend := 0, whave := 0, code := 0 } ∧
    exec .endCmd s = .next { s with own := false, code := 0 }

/-- STEP's entry checks, in their order (R287 to R289): unbound slices, the flush mode, wrapping slices, then `BAD`, `DONE` and
`DICT0`, which answer at once.  Past them the engine is busy.  That `FLUSHR` is written in the last three cases is deduced
(log 8); that the entry counts are kept is R302's progress rule. -/
def Obligations.StepChecksAtEntry : Prop :=
  ∀ s : State, s.own = true →
    let unbound := s.inBound = false ∨ s.outBound = false
    let illegal := s.arg ≠ 0 ∧ s.arg ≠ 2 ∧ s.arg ≠ 4
    let wraps := 2 ^ 32 < s.nextIn.toNat + s.availIn.toNat ∨ 2 ^ 32 < s.nextOut.toNat + s.availOut.toNat
    (unbound ∨ illegal ∨ wraps → exec .stepCmd s = .next { s with code := 0xFE }) ∧
    (¬unbound → ¬illegal → ¬wraps →
      (s.mode = .bad → exec .stepCmd s = .next { s with flushr := s.arg, code := 0xFD }) ∧
      (s.mode = .done → exec .stepCmd s = .next { s with flushr := s.arg, code := 0x01 }) ∧
      (s.mode = .dict0 → exec .stepCmd s = .next { s with flushr := s.arg, code := 0x02 }) ∧
      (s.mode ≠ .bad → s.mode ≠ .done → s.mode ≠ .dict0 →
        exec .stepCmd s = .next
          { s with flushr := s.arg, busy := true, entryIn := s.availIn, entryOut := s.availOut }))

/-- SET_DICT (R257, R275, R297): refused outside `DICT0` and for a wrapping slice; a dictionary with another checksum changes
nothing; the right one is the window's history: its last bytes, as many as the window holds, the rest of the window as it was. -/
def Obligations.SetDictLoadsTheWindow : Prop :=
  ∀ s : State, s.own = true →
    (s.mode ≠ .dict0 ∨ 2 ^ 32 < s.dictPtr.toNat + s.dictLen.toNat → exec .setDict s = .next { s with code := 0xFE }) ∧
    (s.mode = .dict0 → s.dictPtr.toNat + s.dictLen.toNat ≤ 2 ^ 32 →
      ∀ bytes : List Byte, bytes.length = s.dictLen.toNat → holds s.memDict s.dictPtr.toNat bytes →
        (adlerOf 1 bytes ≠ s.needw → exec .setDict s = .next { s with code := 0xFD }) ∧
        (adlerOf 1 bytes = s.needw → winWf s.win = true →
          let m := min bytes.length (wsize s)
          ∃ t, exec .setDict s = .next t ∧
            (∀ i, i < m → winAt t.win i = bytes.getD (bytes.length - m + i) 0) ∧
            (∀ i, m ≤ i → winAt t.win i = winAt s.win i) ∧
            t.wr.toNat = m % wsize s ∧ t.rd = t.wr ∧ t.whave.toNat = m ∧
            t = { s with win := t.win, wr := t.wr, rd := t.rd, pend := 0, whave := t.whave, mode := .blocks, code := 0 }))

/-- SYNC finds the first marker `00 00 FF FF` of the input, the part that an earlier SYNC matched counted in (R40, R300,
R374): the stream restarts just after it as after a reset, in `BLOCKS` in both wrapper modes, the totals kept, the scanned
bytes counted. `MARKER` is at most 3 between commands (EveryStepKeepsInvariant). After the byte at the last address `NEXT_IN`
is 0 by the model's choice (log 25). -/
def Obligations.SyncRestartsAfterFirstMarker : Prop :=
  ∀ (s : State) (bytes after : List Byte), s.own = true → s.inBound = true →
    s.nextIn.toNat + s.availIn.toNat ≤ 2 ^ 32 → (s.mode = .bad → s.marker.toNat ≤ 3) →
    s.availIn.toNat = bytes.length + after.length →
    holds s.memIn s.nextIn.toNat (bytes ++ after) →
    let marker : List Byte := [0x00, 0x00, 0xFF, 0xFF]
    let seen := if s.mode = .bad then marker.take s.marker.toNat else []
    marker <:+ seen ++ bytes → ¬(marker <:+: (seen ++ bytes).dropLast) →
    exec .sync s = .next
      { s with
        nextIn := s.nextIn + BitVec.ofNat 32 bytes.length, availIn := BitVec.ofNat 32 after.length
        totalIn := s.totalIn + BitVec.ofNat 64 bytes.length
        mode := .blocks, wbits := s.wbitsCfg, msg := 0, adler := 1
        marker := 0, needw := 0, wasw := 0, methodr := 0, flushr := 0
        bitb := 0, bitk := 0, bmode := .type, last := false, left := 0, index := 0, cmode := .start
        wr := 0, rd := 0, pend := 0, whave := 0, code := 0 }

/-- SYNC that does not find the marker (R40, R300): a slice not bound or wrapping is refused; without input the answer is
`BUF_ERROR`; else all input is scanned, `MSG` is kept, and `MARKER` counts the longest end of the input, the part an earlier SYNC
matched before it, that begins the marker.  In the last two cases the stream is bad.  `MARKER` is at most 3 between commands
(EveryStepKeepsInvariant).  After the byte at the last address `NEXT_IN` is 0 by the model's choice (log 25). -/
def Obligations.SyncWithoutMarkerLeavesStreamBad : Prop :=
  (∀ s : State, s.own = true →
    (s.inBound = false ∨ 2 ^ 32 < s.nextIn.toNat + s.availIn.toNat → exec .sync s = .next { s with code := 0xFE }) ∧
    (s.inBound = true → s.availIn = 0 →
      exec .sync s = .next
        { s with mode := .bad, marker := if s.mode = .bad then s.marker else 0, code := 0xFB })) ∧
  (∀ (s : State) (bytes : List Byte), s.own = true → s.inBound = true →
    s.nextIn.toNat + s.availIn.toNat ≤ 2 ^ 32 → (s.mode = .bad → s.marker.toNat ≤ 3) →
    s.availIn.toNat = bytes.length → bytes ≠ [] → holds s.memIn s.nextIn.toNat bytes →
    let marker : List Byte := [0x00, 0x00, 0xFF, 0xFF]
    let seen := if s.mode = .bad then marker.take s.marker.toNat else []
    ¬(marker <:+: seen ++ bytes) →
    ∃ m, m ≤ 3 ∧ marker.take m <:+ seen ++ bytes ∧
      (∀ n, n ≤ 3 → marker.take n <:+ seen ++ bytes → n ≤ m) ∧
      exec .sync s = .next
        { s with
          nextIn := s.nextIn + s.availIn, availIn := 0, totalIn := s.totalIn + BitVec.ofNat 64 bytes.length
          mode := .bad, marker := BitVec.ofNat 3 m, code := 0xFD })

/-! ### The whole machine -/

/-- The invariant holds after hardware reset, with the model's reset values (log 1). -/
def Obligations.ResetStateMeetsInvariant : Prop := Inv State.reset

/-- Every step keeps the invariant (R64, R65, and the ranges of 10_state.md): the running engine's, a command's, the host's. -/
def Obligations.EveryStepKeepsInvariant : Prop := ∀ s t : State, Inv s → step s = .next t → Inv t

/-- A step of a state that meets the invariant always has a next state when the slices can be read: no form faults on ordinary
data, and none is refused (R92). -/
def Obligations.StepNeverFaultsOnReadableSlices : Prop :=
  ∀ s : State, Inv s → inputReadable s →
    (∀ a, s.dictPtr.toNat ≤ a → a < s.dictPtr.toNat + s.dictLen.toNat → ∃ b, s.memDict.read a = some b) →
    ∃ t, step s = .next t

/-- Every STEP ends (R11, R388): from a running engine whose input can be read, some number of steps later it is idle. -/
def Obligations.RunningStepTerminates : Prop :=
  ∀ s : State, Inv s → s.busy = true → inputReadable s →
    ∃ n t, Host.Core.run Sys2Proof.core n s = .next t ∧ t.busy = false

/-- What the engine never writes (R23, R33, R84): the input and the dictionary, the argument and the dictionary's registers, and
the host's own side; nor any register of the configuration but in INIT (R36, R37). -/
def Obligations.EngineNeverWritesHostSide : Prop :=
  ∀ s t : State, (s.busy = true ∨ s.cmd ≠ none) → step s = .next t →
    t.memIn = s.memIn ∧ t.memDict = s.memDict ∧ t.arg = s.arg ∧ t.dictPtr = s.dictPtr ∧ t.dictLen = s.dictLen ∧
    t.host = s.host ∧ t.loop = s.loop ∧ t.hostData = s.hostData ∧ t.freeCount = s.freeCount ∧
    (s.busy = true ∨ s.cmd ≠ some 1 → t.nowrap = s.nowrap ∧ t.wbitsCfg = s.wbitsCfg ∧ t.inBound = s.inBound ∧
      t.outBound = s.outBound)

/-- A running engine's input and output accounts (R26 to R31, R67): the pointers, the counts left and the totals move together,
and output is written only at the addresses the output cursor passed.  After the byte at the last address a pointer is 0 by the
model's choice (log 25). -/
def Obligations.CursorsAndTotalsMoveTogether : Prop :=
  ∀ s t : State, Inv s → s.busy = true → step s = .next t →
    ∃ k j : Nat, k ≤ s.availIn.toNat ∧ j ≤ s.availOut.toNat ∧
      t.nextIn = s.nextIn + BitVec.ofNat 32 k ∧ t.availIn.toNat = s.availIn.toNat - k ∧
      t.totalIn = s.totalIn + BitVec.ofNat 64 k ∧
      t.nextOut = s.nextOut + BitVec.ofNat 32 j ∧ t.availOut.toNat = s.availOut.toNat - j ∧
      t.totalOut = s.totalOut + BitVec.ofNat 64 j ∧
      ∀ a, a < s.nextOut.toNat ∨ s.nextOut.toNat + j ≤ a → t.memOut.read a = s.memOut.read a

/-- Once a fatal error is entered, the only ways out are SYNC, RESET and INIT (R299, R355) and hardware reset; a STEP there
answers `DATA_ERROR` and changes nothing but `FLUSHR`.  That it writes `FLUSHR` is the model's reading (log 8, DEDUCED). -/
def Obligations.BadModeIsLeftOnlyByResync : Prop :=
  (∀ s t : State, s.mode = .bad → step s = .next t → t.mode ≠ .bad →
    s.busy = false ∧ (s.cmd = some 1 ∨ s.cmd = some 2 ∨ s.cmd = some 5 ∨
      (s.cmd = none ∧ s.host.head? = some .hardReset))) ∧
  (∀ s : State, s.mode = .bad → s.busy = false → s.cmd = some 3 → s.own = true → s.inBound = true → s.outBound = true →
    (s.arg = 0 ∨ s.arg = 2 ∨ s.arg = 4) → inWraps s = false → outWraps s = false →
    step s = .next { s with cmd := none, flushr := s.arg, code := 0xFD })

/-- Stream ownership changes only by INIT, END and hardware reset (R34). -/
def Obligations.OwnershipChangesOnlyByInitEnd : Prop :=
  ∀ s t : State, step s = .next t → t.own ≠ s.own →
    s.busy = false ∧ ((s.cmd = some 1 ∧ t.own = true) ∨ (s.cmd = some 6 ∧ t.own = false) ∨
      (s.cmd = none ∧ s.host.head? = some .hardReset ∧ t.own = false))

/-- What a committed micro-step leaves in the accumulator (R65 (c), R147 (a)): a step that begins with at most 7 bits held and
does not end the STEP leaves at most 7. It rests on the tables in force having the levels of R178 (a) and (b), a symbol being
decoded at one of them (R55, R177); this holds after reset (with the reset values of log 1) and every step keeps it. An index
beyond a table has the invalid entry by the model's choice (log 4). -/
def Obligations.CommittedMicroStepHoldsUnderOneByte : Prop :=
  TablesInForce State.reset ∧
  ∀ s t : State, Inv s → TablesInForce s → step s = .next t →
    TablesInForce t ∧ (s.busy = true → t.busy = true → s.bitk.toNat ≤ 7 → t.bitk.toNat ≤ 7)
end

