-- ==== Sys2Proof/Laws/Memory.lean ====
section
/-! SUPPORT. The laws of the memories: read after write, and that every operation keeps the canonical form. -/

namespace Sys2Proof.Machine

/-- A memory whose every address is above `a` lists nothing at `a` or below. -/
def Memory.above (m : Memory) (a : Nat) : Prop := ∀ c ∈ m, a < c.1

theorem Memory.wf_cons (c : Host.Cell) (r : Memory) : Memory.wf (c :: r) = true ↔ Memory.above r c.1 ∧ Memory.wf r = true := by
  induction r generalizing c with
  | nil => simp [Memory.wf, Memory.above]
  | cons d r ih =>
    simp only [Memory.wf, Bool.and_eq_true, decide_eq_true_eq, Memory.above, List.mem_cons, forall_eq_or_imp]
    constructor
    · rintro ⟨h, hw⟩
      exact ⟨⟨h, fun x hx => h.trans (((ih d).1 hw).1 x hx)⟩, hw⟩
    · rintro ⟨⟨h, _⟩, hw⟩
      exact ⟨h, hw⟩

theorem Memory.read_of_above {m : Memory} {a : Nat} (h : m.above a) : m.read a = none := by
  induction m with
  | nil => rfl
  | cons c r ih =>
    have hc : a < c.1 := h c (by simp)
    have : c.1 ≠ a := by omega
    simp only [Memory.read, this, if_false]
    exact ih (fun x hx => h x (by simp [hx]))

@[simp] theorem Memory.read_write_same (m : Memory) (a : Nat) (b : Byte) : (m.write a b).read a = some b := by
  induction m with
  | nil => simp [Memory.write, Memory.read]
  | cons c r ih =>
    simp only [Memory.write]
    split
    · simp [Memory.read]
    · split
      · simp [Memory.read]
      · have : c.1 ≠ a := by omega
        simp [Memory.read, this, ih]

theorem Memory.read_write_other (m : Memory) {a x : Nat} (b : Byte) (h : x ≠ a) : (m.write a b).read x = m.read x := by
  induction m with
  | nil => simp [Memory.write, Memory.read, h.symm]
  | cons c r ih =>
    simp only [Memory.write]
    split
    · simp [Memory.read, h.symm]
    · split
      · rename_i hlt heq
        subst heq
        simp [Memory.read, h.symm]
      · simp [Memory.read, ih]

theorem Memory.mem_write {m : Memory} {a : Nat} {b : Byte} {c : Host.Cell} (h : c ∈ m.write a b) : c = (a, b) ∨ c ∈ m := by
  induction m with
  | nil => simpa [Memory.write] using h
  | cons d r ih =>
    simp only [Memory.write] at h
    split at h
    · simpa using h
    · split at h
      · rcases List.mem_cons.1 h with h | h
        · exact .inl h
        · exact .inr (by simp [h])
      · rcases List.mem_cons.1 h with h | h
        · exact .inr (by simp [h])
        · rcases ih h with h | h
          · exact .inl h
          · exact .inr (by simp [h])

/-- A write keeps the canonical form. -/
theorem Memory.wf_write {m : Memory} (a : Nat) (b : Byte) (h : m.wf = true) : (m.write a b).wf = true := by
  induction m with
  | nil => rfl
  | cons c r ih =>
    obtain ⟨hab, hw⟩ := (Memory.wf_cons c r).1 h
    simp only [Memory.write]
    split
    · rename_i hlt
      refine (Memory.wf_cons _ _).2 ⟨fun x hx => ?_, h⟩
      rcases List.mem_cons.1 hx with rfl | hx
      · exact hlt
      · exact hlt.trans (hab x hx)
    · split
      · rename_i hlt heq
        subst heq
        exact (Memory.wf_cons _ _).2 ⟨hab, hw⟩
      · refine (Memory.wf_cons _ _).2 ⟨fun x hx => ?_, ih hw⟩
        rcases Memory.mem_write hx with rfl | hx
        · show c.1 < a
          omega
        · exact hab x hx

theorem Memory.mem_erase {m : Memory} {a : Nat} {c : Host.Cell} (h : c ∈ m.erase a) : c ∈ m := by
  induction m with
  | nil => exact h
  | cons d r ih =>
    simp only [Memory.erase] at h
    split at h
    · simp [h]
    · rcases List.mem_cons.1 h with h | h
      · simp [h]
      · simp [ih h]

/-- Erasing keeps the canonical form. -/
theorem Memory.wf_erase {m : Memory} (a : Nat) (h : m.wf = true) : (m.erase a).wf = true := by
  induction m with
  | nil => rfl
  | cons c r ih =>
    obtain ⟨hab, hw⟩ := (Memory.wf_cons c r).1 h
    simp only [Memory.erase]
    split
    · exact hw
    · exact (Memory.wf_cons _ _).2 ⟨fun x hx => hab x (Memory.mem_erase hx), ih hw⟩

theorem Memory.read_erase_same {m : Memory} {a : Nat} (h : m.wf = true) : (m.erase a).read a = none := by
  induction m with
  | nil => rfl
  | cons c r ih =>
    obtain ⟨hab, hw⟩ := (Memory.wf_cons c r).1 h
    simp only [Memory.erase]
    split
    · rename_i heq
      subst heq
      exact Memory.read_of_above hab
    · rename_i hne
      simp [Memory.read, hne, ih hw]

theorem Memory.read_erase_other (m : Memory) {a x : Nat} (h : x ≠ a) : (m.erase a).read x = m.read x := by
  induction m with
  | nil => rfl
  | cons c r ih =>
    simp only [Memory.erase]
    split
    · rename_i heq
      subst heq
      simp [Memory.read, h.symm]
    · simp [Memory.read, ih]

theorem winWf_wf {m : Memory} (h : winWf m = true) : m.wf = true := by
  simp only [winWf, Bool.and_eq_true] at h
  exact h.1

/-- The window RAM reads what was stored. -/
theorem winAt_winStore_same {m : Memory} (i : Nat) (b : Byte) (h : m.wf = true) : winAt (winStore m i b) i = b := by
  simp only [winAt, winStore]
  split
  · rename_i hb
    simp [Memory.read_erase_same h, hb]
  · simp

/-- Storing leaves every other location of the window RAM as it was. -/
theorem winAt_winStore_other (m : Memory) {i x : Nat} (b : Byte) (h : x ≠ i) : winAt (winStore m i b) x = winAt m x := by
  simp only [winAt, winStore]
  split
  · rw [Memory.read_erase_other m h]
  · rw [Memory.read_write_other m b h]

/-- Storing below `WIN_CAP` keeps the window RAM's canonical form. -/
theorem winWf_winStore {m : Memory} {i : Nat} (b : Byte) (hi : i < 32768) (h : winWf m = true) :
    winWf (winStore m i b) = true := by
  simp only [winWf, Bool.and_eq_true, List.all_eq_true, decide_eq_true_eq, bne_iff_ne, ne_eq] at h ⊢
  obtain ⟨hw, ha⟩ := h
  unfold winStore
  split
  · exact ⟨Memory.wf_erase i hw, fun c hc => ha c (Memory.mem_erase hc)⟩
  · rename_i hb
    refine ⟨Memory.wf_write i b hw, fun c hc => ?_⟩
    rcases Memory.mem_write hc with rfl | hc
    · exact ⟨hi, hb⟩
    · exact ha c hc

theorem Memory.eq_of_read {m n : Memory} (hm : m.wf = true) (hn : n.wf = true) (h : ∀ a, m.read a = n.read a) : m = n := by
  induction m generalizing n with
  | nil =>
    cases n with
    | nil => rfl
    | cons d r => have := h d.1; simp [Memory.read] at this
  | cons c r ih =>
    obtain ⟨hab, hw⟩ := (Memory.wf_cons c r).1 hm
    cases n with
    | nil => have := h c.1; simp [Memory.read] at this
    | cons d q =>
      obtain ⟨hdb, hv⟩ := (Memory.wf_cons d q).1 hn
      have hcd : c.1 = d.1 := by
        rcases Nat.lt_trichotomy c.1 d.1 with hlt | heq | hgt
        · have h1 := h c.1
          rw [Memory.read_of_above (m := d :: q) (a := c.1)] at h1
          · simp [Memory.read] at h1
          · intro x hx
            rcases List.mem_cons.1 hx with rfl | hx
            · exact hlt
            · exact hlt.trans (hdb x hx)
        · exact heq
        · have h1 := h d.1
          rw [Memory.read_of_above (m := c :: r) (a := d.1)] at h1
          · simp [Memory.read] at h1
          · intro x hx
            rcases List.mem_cons.1 hx with rfl | hx
            · exact hgt
            · exact hgt.trans (hab x hx)
      have hval : c.2 = d.2 := by
        have h1 := h c.1
        simpa [Memory.read, hcd] using h1
      have hc : c = d := Prod.ext hcd hval
      subst hc
      refine congrArg _ (ih hw hv fun a => ?_)
      by_cases hac : c.1 = a
      · subst hac
        rw [Memory.read_of_above hab, Memory.read_of_above hdb]
      · simpa [Memory.read, hac] using h a

end Sys2Proof.Machine
end

