-- ==== Sys2Proof/Laws/State.lean ====
section
/-! SUPPORT. One lemma per field per named update of the state, so that no proof unfolds an update. -/

namespace Sys2Proof.Machine

/-! ### `advanceIn` -/

@[simp] theorem advanceIn_cmd (s : State) : (advanceIn s).cmd = s.cmd := rfl
@[simp] theorem advanceIn_arg (s : State) : (advanceIn s).arg = s.arg := rfl
@[simp] theorem advanceIn_busy (s : State) : (advanceIn s).busy = s.busy := rfl
@[simp] theorem advanceIn_code (s : State) : (advanceIn s).code = s.code := rfl
@[simp] theorem advanceIn_msg (s : State) : (advanceIn s).msg = s.msg := rfl
@[simp] theorem advanceIn_nextIn (s : State) : (advanceIn s).nextIn = s.nextIn + 1 := rfl
@[simp] theorem advanceIn_inBound (s : State) : (advanceIn s).inBound = s.inBound := rfl
@[simp] theorem advanceIn_availIn (s : State) : (advanceIn s).availIn = s.availIn - 1 := rfl
@[simp] theorem advanceIn_nextOut (s : State) : (advanceIn s).nextOut = s.nextOut := rfl
@[simp] theorem advanceIn_outBound (s : State) : (advanceIn s).outBound = s.outBound := rfl
@[simp] theorem advanceIn_availOut (s : State) : (advanceIn s).availOut = s.availOut := rfl
@[simp] theorem advanceIn_totalIn (s : State) : (advanceIn s).totalIn = s.totalIn + 1 := rfl
@[simp] theorem advanceIn_totalOut (s : State) : (advanceIn s).totalOut = s.totalOut := rfl
@[simp] theorem advanceIn_adler (s : State) : (advanceIn s).adler = s.adler := rfl
@[simp] theorem advanceIn_dictPtr (s : State) : (advanceIn s).dictPtr = s.dictPtr := rfl
@[simp] theorem advanceIn_dictLen (s : State) : (advanceIn s).dictLen = s.dictLen := rfl
@[simp] theorem advanceIn_own (s : State) : (advanceIn s).own = s.own := rfl
@[simp] theorem advanceIn_mode (s : State) : (advanceIn s).mode = s.mode := rfl
@[simp] theorem advanceIn_nowrap (s : State) : (advanceIn s).nowrap = s.nowrap := rfl
@[simp] theorem advanceIn_wbitsCfg (s : State) : (advanceIn s).wbitsCfg = s.wbitsCfg := rfl
@[simp] theorem advanceIn_wbits (s : State) : (advanceIn s).wbits = s.wbits := rfl
@[simp] theorem advanceIn_methodr (s : State) : (advanceIn s).methodr = s.methodr := rfl
@[simp] theorem advanceIn_needw (s : State) : (advanceIn s).needw = s.needw := rfl
@[simp] theorem advanceIn_wasw (s : State) : (advanceIn s).wasw = s.wasw := rfl
@[simp] theorem advanceIn_marker (s : State) : (advanceIn s).marker = s.marker := rfl
@[simp] theorem advanceIn_flushr (s : State) : (advanceIn s).flushr = s.flushr := rfl
@[simp] theorem advanceIn_bitb (s : State) : (advanceIn s).bitb = s.bitb := rfl
@[simp] theorem advanceIn_bitk (s : State) : (advanceIn s).bitk = s.bitk := rfl
@[simp] theorem advanceIn_bmode (s : State) : (advanceIn s).bmode = s.bmode := rfl
@[simp] theorem advanceIn_last (s : State) : (advanceIn s).last = s.last := rfl
@[simp] theorem advanceIn_left (s : State) : (advanceIn s).left = s.left := rfl
@[simp] theorem advanceIn_nlen (s : State) : (advanceIn s).nlen = s.nlen := rfl
@[simp] theorem advanceIn_ndist (s : State) : (advanceIn s).ndist = s.ndist := rfl
@[simp] theorem advanceIn_nclen (s : State) : (advanceIn s).nclen = s.nclen := rfl
@[simp] theorem advanceIn_index (s : State) : (advanceIn s).index = s.index := rfl
@[simp] theorem advanceIn_cllens (s : State) : (advanceIn s).cllens = s.cllens := rfl
@[simp] theorem advanceIn_lens (s : State) : (advanceIn s).lens = s.lens := rfl
@[simp] theorem advanceIn_lt (s : State) : (advanceIn s).lt = s.lt := rfl
@[simp] theorem advanceIn_dt (s : State) : (advanceIn s).dt = s.dt := rfl
@[simp] theorem advanceIn_ct (s : State) : (advanceIn s).ct = s.ct := rfl
@[simp] theorem advanceIn_lbits (s : State) : (advanceIn s).lbits = s.lbits := rfl
@[simp] theorem advanceIn_dbits (s : State) : (advanceIn s).dbits = s.dbits := rfl
@[simp] theorem advanceIn_cmode (s : State) : (advanceIn s).cmode = s.cmode := rfl
@[simp] theorem advanceIn_tptr (s : State) : (advanceIn s).tptr = s.tptr := rfl
@[simp] theorem advanceIn_tneed (s : State) : (advanceIn s).tneed = s.tneed := rfl
@[simp] theorem advanceIn_litv (s : State) : (advanceIn s).litv = s.litv := rfl
@[simp] theorem advanceIn_lenr (s : State) : (advanceIn s).lenr = s.lenr := rfl
@[simp] theorem advanceIn_ext (s : State) : (advanceIn s).ext = s.ext := rfl
@[simp] theorem advanceIn_distr (s : State) : (advanceIn s).distr = s.distr := rfl
@[simp] theorem advanceIn_win (s : State) : (advanceIn s).win = s.win := rfl
@[simp] theorem advanceIn_wr (s : State) : (advanceIn s).wr = s.wr := rfl
@[simp] theorem advanceIn_rd (s : State) : (advanceIn s).rd = s.rd := rfl
@[simp] theorem advanceIn_pend (s : State) : (advanceIn s).pend = s.pend := rfl
@[simp] theorem advanceIn_whave (s : State) : (advanceIn s).whave = s.whave := rfl
@[simp] theorem advanceIn_memIn (s : State) : (advanceIn s).memIn = s.memIn := rfl
@[simp] theorem advanceIn_memOut (s : State) : (advanceIn s).memOut = s.memOut := rfl
@[simp] theorem advanceIn_memDict (s : State) : (advanceIn s).memDict = s.memDict := rfl
@[simp] theorem advanceIn_entryIn (s : State) : (advanceIn s).entryIn = s.entryIn := rfl
@[simp] theorem advanceIn_entryOut (s : State) : (advanceIn s).entryOut = s.entryOut := rfl
@[simp] theorem advanceIn_host (s : State) : (advanceIn s).host = s.host := rfl
@[simp] theorem advanceIn_loop (s : State) : (advanceIn s).loop = s.loop := rfl
@[simp] theorem advanceIn_hostData (s : State) : (advanceIn s).hostData = s.hostData := rfl
@[simp] theorem advanceIn_freeCount (s : State) : (advanceIn s).freeCount = s.freeCount := rfl

/-! ### `accept` -/

@[simp] theorem accept_cmd (b : Byte) (s : State) : (accept b s).cmd = s.cmd := rfl
@[simp] theorem accept_arg (b : Byte) (s : State) : (accept b s).arg = s.arg := rfl
@[simp] theorem accept_busy (b : Byte) (s : State) : (accept b s).busy = s.busy := rfl
@[simp] theorem accept_code (b : Byte) (s : State) : (accept b s).code = s.code := rfl
@[simp] theorem accept_msg (b : Byte) (s : State) : (accept b s).msg = s.msg := rfl
@[simp] theorem accept_nextIn (b : Byte) (s : State) : (accept b s).nextIn = s.nextIn := rfl
@[simp] theorem accept_inBound (b : Byte) (s : State) : (accept b s).inBound = s.inBound := rfl
@[simp] theorem accept_availIn (b : Byte) (s : State) : (accept b s).availIn = s.availIn := rfl
@[simp] theorem accept_nextOut (b : Byte) (s : State) : (accept b s).nextOut = s.nextOut := rfl
@[simp] theorem accept_outBound (b : Byte) (s : State) : (accept b s).outBound = s.outBound := rfl
@[simp] theorem accept_availOut (b : Byte) (s : State) : (accept b s).availOut = s.availOut := rfl
@[simp] theorem accept_totalIn (b : Byte) (s : State) : (accept b s).totalIn = s.totalIn := rfl
@[simp] theorem accept_totalOut (b : Byte) (s : State) : (accept b s).totalOut = s.totalOut := rfl
@[simp] theorem accept_adler (b : Byte) (s : State) : (accept b s).adler = s.adler := rfl
@[simp] theorem accept_dictPtr (b : Byte) (s : State) : (accept b s).dictPtr = s.dictPtr := rfl
@[simp] theorem accept_dictLen (b : Byte) (s : State) : (accept b s).dictLen = s.dictLen := rfl
@[simp] theorem accept_own (b : Byte) (s : State) : (accept b s).own = s.own := rfl
@[simp] theorem accept_mode (b : Byte) (s : State) : (accept b s).mode = s.mode := rfl
@[simp] theorem accept_nowrap (b : Byte) (s : State) : (accept b s).nowrap = s.nowrap := rfl
@[simp] theorem accept_wbitsCfg (b : Byte) (s : State) : (accept b s).wbitsCfg = s.wbitsCfg := rfl
@[simp] theorem accept_wbits (b : Byte) (s : State) : (accept b s).wbits = s.wbits := rfl
@[simp] theorem accept_methodr (b : Byte) (s : State) : (accept b s).methodr = s.methodr := rfl
@[simp] theorem accept_needw (b : Byte) (s : State) : (accept b s).needw = s.needw := rfl
@[simp] theorem accept_wasw (b : Byte) (s : State) : (accept b s).wasw = s.wasw := rfl
@[simp] theorem accept_marker (b : Byte) (s : State) : (accept b s).marker = s.marker := rfl
@[simp] theorem accept_flushr (b : Byte) (s : State) : (accept b s).flushr = s.flushr := rfl
@[simp] theorem accept_bitb (b : Byte) (s : State) : (accept b s).bitb = s.bitb ||| (b.setWidth 32 <<< s.bitk.toNat) := rfl
@[simp] theorem accept_bitk (b : Byte) (s : State) : (accept b s).bitk = s.bitk + 8 := rfl
@[simp] theorem accept_bmode (b : Byte) (s : State) : (accept b s).bmode = s.bmode := rfl
@[simp] theorem accept_last (b : Byte) (s : State) : (accept b s).last = s.last := rfl
@[simp] theorem accept_left (b : Byte) (s : State) : (accept b s).left = s.left := rfl
@[simp] theorem accept_nlen (b : Byte) (s : State) : (accept b s).nlen = s.nlen := rfl
@[simp] theorem accept_ndist (b : Byte) (s : State) : (accept b s).ndist = s.ndist := rfl
@[simp] theorem accept_nclen (b : Byte) (s : State) : (accept b s).nclen = s.nclen := rfl
@[simp] theorem accept_index (b : Byte) (s : State) : (accept b s).index = s.index := rfl
@[simp] theorem accept_cllens (b : Byte) (s : State) : (accept b s).cllens = s.cllens := rfl
@[simp] theorem accept_lens (b : Byte) (s : State) : (accept b s).lens = s.lens := rfl
@[simp] theorem accept_lt (b : Byte) (s : State) : (accept b s).lt = s.lt := rfl
@[simp] theorem accept_dt (b : Byte) (s : State) : (accept b s).dt = s.dt := rfl
@[simp] theorem accept_ct (b : Byte) (s : State) : (accept b s).ct = s.ct := rfl
@[simp] theorem accept_lbits (b : Byte) (s : State) : (accept b s).lbits = s.lbits := rfl
@[simp] theorem accept_dbits (b : Byte) (s : State) : (accept b s).dbits = s.dbits := rfl
@[simp] theorem accept_cmode (b : Byte) (s : State) : (accept b s).cmode = s.cmode := rfl
@[simp] theorem accept_tptr (b : Byte) (s : State) : (accept b s).tptr = s.tptr := rfl
@[simp] theorem accept_tneed (b : Byte) (s : State) : (accept b s).tneed = s.tneed := rfl
@[simp] theorem accept_litv (b : Byte) (s : State) : (accept b s).litv = s.litv := rfl
@[simp] theorem accept_lenr (b : Byte) (s : State) : (accept b s).lenr = s.lenr := rfl
@[simp] theorem accept_ext (b : Byte) (s : State) : (accept b s).ext = s.ext := rfl
@[simp] theorem accept_distr (b : Byte) (s : State) : (accept b s).distr = s.distr := rfl
@[simp] theorem accept_win (b : Byte) (s : State) : (accept b s).win = s.win := rfl
@[simp] theorem accept_wr (b : Byte) (s : State) : (accept b s).wr = s.wr := rfl
@[simp] theorem accept_rd (b : Byte) (s : State) : (accept b s).rd = s.rd := rfl
@[simp] theorem accept_pend (b : Byte) (s : State) : (accept b s).pend = s.pend := rfl
@[simp] theorem accept_whave (b : Byte) (s : State) : (accept b s).whave = s.whave := rfl
@[simp] theorem accept_memIn (b : Byte) (s : State) : (accept b s).memIn = s.memIn := rfl
@[simp] theorem accept_memOut (b : Byte) (s : State) : (accept b s).memOut = s.memOut := rfl
@[simp] theorem accept_memDict (b : Byte) (s : State) : (accept b s).memDict = s.memDict := rfl
@[simp] theorem accept_entryIn (b : Byte) (s : State) : (accept b s).entryIn = s.entryIn := rfl
@[simp] theorem accept_entryOut (b : Byte) (s : State) : (accept b s).entryOut = s.entryOut := rfl
@[simp] theorem accept_host (b : Byte) (s : State) : (accept b s).host = s.host := rfl
@[simp] theorem accept_loop (b : Byte) (s : State) : (accept b s).loop = s.loop := rfl
@[simp] theorem accept_hostData (b : Byte) (s : State) : (accept b s).hostData = s.hostData := rfl
@[simp] theorem accept_freeCount (b : Byte) (s : State) : (accept b s).freeCount = s.freeCount := rfl

/-! ### `consume` -/

@[simp] theorem consume_cmd (n : Nat) (s : State) : (consume n s).cmd = s.cmd := rfl
@[simp] theorem consume_arg (n : Nat) (s : State) : (consume n s).arg = s.arg := rfl
@[simp] theorem consume_busy (n : Nat) (s : State) : (consume n s).busy = s.busy := rfl
@[simp] theorem consume_code (n : Nat) (s : State) : (consume n s).code = s.code := rfl
@[simp] theorem consume_msg (n : Nat) (s : State) : (consume n s).msg = s.msg := rfl
@[simp] theorem consume_nextIn (n : Nat) (s : State) : (consume n s).nextIn = s.nextIn := rfl
@[simp] theorem consume_inBound (n : Nat) (s : State) : (consume n s).inBound = s.inBound := rfl
@[simp] theorem consume_availIn (n : Nat) (s : State) : (consume n s).availIn = s.availIn := rfl
@[simp] theorem consume_nextOut (n : Nat) (s : State) : (consume n s).nextOut = s.nextOut := rfl
@[simp] theorem consume_outBound (n : Nat) (s : State) : (consume n s).outBound = s.outBound := rfl
@[simp] theorem consume_availOut (n : Nat) (s : State) : (consume n s).availOut = s.availOut := rfl
@[simp] theorem consume_totalIn (n : Nat) (s : State) : (consume n s).totalIn = s.totalIn := rfl
@[simp] theorem consume_totalOut (n : Nat) (s : State) : (consume n s).totalOut = s.totalOut := rfl
@[simp] theorem consume_adler (n : Nat) (s : State) : (consume n s).adler = s.adler := rfl
@[simp] theorem consume_dictPtr (n : Nat) (s : State) : (consume n s).dictPtr = s.dictPtr := rfl
@[simp] theorem consume_dictLen (n : Nat) (s : State) : (consume n s).dictLen = s.dictLen := rfl
@[simp] theorem consume_own (n : Nat) (s : State) : (consume n s).own = s.own := rfl
@[simp] theorem consume_mode (n : Nat) (s : State) : (consume n s).mode = s.mode := rfl
@[simp] theorem consume_nowrap (n : Nat) (s : State) : (consume n s).nowrap = s.nowrap := rfl
@[simp] theorem consume_wbitsCfg (n : Nat) (s : State) : (consume n s).wbitsCfg = s.wbitsCfg := rfl
@[simp] theorem consume_wbits (n : Nat) (s : State) : (consume n s).wbits = s.wbits := rfl
@[simp] theorem consume_methodr (n : Nat) (s : State) : (consume n s).methodr = s.methodr := rfl
@[simp] theorem consume_needw (n : Nat) (s : State) : (consume n s).needw = s.needw := rfl
@[simp] theorem consume_wasw (n : Nat) (s : State) : (consume n s).wasw = s.wasw := rfl
@[simp] theorem consume_marker (n : Nat) (s : State) : (consume n s).marker = s.marker := rfl
@[simp] theorem consume_flushr (n : Nat) (s : State) : (consume n s).flushr = s.flushr := rfl
@[simp] theorem consume_bitb (n : Nat) (s : State) : (consume n s).bitb = s.bitb >>> n := rfl
@[simp] theorem consume_bitk (n : Nat) (s : State) : (consume n s).bitk = s.bitk - BitVec.ofNat 6 n := rfl
@[simp] theorem consume_bmode (n : Nat) (s : State) : (consume n s).bmode = s.bmode := rfl
@[simp] theorem consume_last (n : Nat) (s : State) : (consume n s).last = s.last := rfl
@[simp] theorem consume_left (n : Nat) (s : State) : (consume n s).left = s.left := rfl
@[simp] theorem consume_nlen (n : Nat) (s : State) : (consume n s).nlen = s.nlen := rfl
@[simp] theorem consume_ndist (n : Nat) (s : State) : (consume n s).ndist = s.ndist := rfl
@[simp] theorem consume_nclen (n : Nat) (s : State) : (consume n s).nclen = s.nclen := rfl
@[simp] theorem consume_index (n : Nat) (s : State) : (consume n s).index = s.index := rfl
@[simp] theorem consume_cllens (n : Nat) (s : State) : (consume n s).cllens = s.cllens := rfl
@[simp] theorem consume_lens (n : Nat) (s : State) : (consume n s).lens = s.lens := rfl
@[simp] theorem consume_lt (n : Nat) (s : State) : (consume n s).lt = s.lt := rfl
@[simp] theorem consume_dt (n : Nat) (s : State) : (consume n s).dt = s.dt := rfl
@[simp] theorem consume_ct (n : Nat) (s : State) : (consume n s).ct = s.ct := rfl
@[simp] theorem consume_lbits (n : Nat) (s : State) : (consume n s).lbits = s.lbits := rfl
@[simp] theorem consume_dbits (n : Nat) (s : State) : (consume n s).dbits = s.dbits := rfl
@[simp] theorem consume_cmode (n : Nat) (s : State) : (consume n s).cmode = s.cmode := rfl
@[simp] theorem consume_tptr (n : Nat) (s : State) : (consume n s).tptr = s.tptr := rfl
@[simp] theorem consume_tneed (n : Nat) (s : State) : (consume n s).tneed = s.tneed := rfl
@[simp] theorem consume_litv (n : Nat) (s : State) : (consume n s).litv = s.litv := rfl
@[simp] theorem consume_lenr (n : Nat) (s : State) : (consume n s).lenr = s.lenr := rfl
@[simp] theorem consume_ext (n : Nat) (s : State) : (consume n s).ext = s.ext := rfl
@[simp] theorem consume_distr (n : Nat) (s : State) : (consume n s).distr = s.distr := rfl
@[simp] theorem consume_win (n : Nat) (s : State) : (consume n s).win = s.win := rfl
@[simp] theorem consume_wr (n : Nat) (s : State) : (consume n s).wr = s.wr := rfl
@[simp] theorem consume_rd (n : Nat) (s : State) : (consume n s).rd = s.rd := rfl
@[simp] theorem consume_pend (n : Nat) (s : State) : (consume n s).pend = s.pend := rfl
@[simp] theorem consume_whave (n : Nat) (s : State) : (consume n s).whave = s.whave := rfl
@[simp] theorem consume_memIn (n : Nat) (s : State) : (consume n s).memIn = s.memIn := rfl
@[simp] theorem consume_memOut (n : Nat) (s : State) : (consume n s).memOut = s.memOut := rfl
@[simp] theorem consume_memDict (n : Nat) (s : State) : (consume n s).memDict = s.memDict := rfl
@[simp] theorem consume_entryIn (n : Nat) (s : State) : (consume n s).entryIn = s.entryIn := rfl
@[simp] theorem consume_entryOut (n : Nat) (s : State) : (consume n s).entryOut = s.entryOut := rfl
@[simp] theorem consume_host (n : Nat) (s : State) : (consume n s).host = s.host := rfl
@[simp] theorem consume_loop (n : Nat) (s : State) : (consume n s).loop = s.loop := rfl
@[simp] theorem consume_hostData (n : Nat) (s : State) : (consume n s).hostData = s.hostData := rfl
@[simp] theorem consume_freeCount (n : Nat) (s : State) : (consume n s).freeCount = s.freeCount := rfl

/-! ### `winWrite` -/

@[simp] theorem winWrite_cmd (b : Byte) (s : State) : (winWrite b s).cmd = s.cmd := rfl
@[simp] theorem winWrite_arg (b : Byte) (s : State) : (winWrite b s).arg = s.arg := rfl
@[simp] theorem winWrite_busy (b : Byte) (s : State) : (winWrite b s).busy = s.busy := rfl
@[simp] theorem winWrite_code (b : Byte) (s : State) : (winWrite b s).code = s.code := rfl
@[simp] theorem winWrite_msg (b : Byte) (s : State) : (winWrite b s).msg = s.msg := rfl
@[simp] theorem winWrite_nextIn (b : Byte) (s : State) : (winWrite b s).nextIn = s.nextIn := rfl
@[simp] theorem winWrite_inBound (b : Byte) (s : State) : (winWrite b s).inBound = s.inBound := rfl
@[simp] theorem winWrite_availIn (b : Byte) (s : State) : (winWrite b s).availIn = s.availIn := rfl
@[simp] theorem winWrite_nextOut (b : Byte) (s : State) : (winWrite b s).nextOut = s.nextOut := rfl
@[simp] theorem winWrite_outBound (b : Byte) (s : State) : (winWrite b s).outBound = s.outBound := rfl
@[simp] theorem winWrite_availOut (b : Byte) (s : State) : (winWrite b s).availOut = s.availOut := rfl
@[simp] theorem winWrite_totalIn (b : Byte) (s : State) : (winWrite b s).totalIn = s.totalIn := rfl
@[simp] theorem winWrite_totalOut (b : Byte) (s : State) : (winWrite b s).totalOut = s.totalOut := rfl
@[simp] theorem winWrite_adler (b : Byte) (s : State) : (winWrite b s).adler = s.adler := rfl
@[simp] theorem winWrite_dictPtr (b : Byte) (s : State) : (winWrite b s).dictPtr = s.dictPtr := rfl
@[simp] theorem winWrite_dictLen (b : Byte) (s : State) : (winWrite b s).dictLen = s.dictLen := rfl
@[simp] theorem winWrite_own (b : Byte) (s : State) : (winWrite b s).own = s.own := rfl
@[simp] theorem winWrite_mode (b : Byte) (s : State) : (winWrite b s).mode = s.mode := rfl
@[simp] theorem winWrite_nowrap (b : Byte) (s : State) : (winWrite b s).nowrap = s.nowrap := rfl
@[simp] theorem winWrite_wbitsCfg (b : Byte) (s : State) : (winWrite b s).wbitsCfg = s.wbitsCfg := rfl
@[simp] theorem winWrite_wbits (b : Byte) (s : State) : (winWrite b s).wbits = s.wbits := rfl
@[simp] theorem winWrite_methodr (b : Byte) (s : State) : (winWrite b s).methodr = s.methodr := rfl
@[simp] theorem winWrite_needw (b : Byte) (s : State) : (winWrite b s).needw = s.needw := rfl
@[simp] theorem winWrite_wasw (b : Byte) (s : State) : (winWrite b s).wasw = s.wasw := rfl
@[simp] theorem winWrite_marker (b : Byte) (s : State) : (winWrite b s).marker = s.marker := rfl
@[simp] theorem winWrite_flushr (b : Byte) (s : State) : (winWrite b s).flushr = s.flushr := rfl
@[simp] theorem winWrite_bitb (b : Byte) (s : State) : (winWrite b s).bitb = s.bitb := rfl
@[simp] theorem winWrite_bitk (b : Byte) (s : State) : (winWrite b s).bitk = s.bitk := rfl
@[simp] theorem winWrite_bmode (b : Byte) (s : State) : (winWrite b s).bmode = s.bmode := rfl
@[simp] theorem winWrite_last (b : Byte) (s : State) : (winWrite b s).last = s.last := rfl
@[simp] theorem winWrite_left (b : Byte) (s : State) : (winWrite b s).left = s.left := rfl
@[simp] theorem winWrite_nlen (b : Byte) (s : State) : (winWrite b s).nlen = s.nlen := rfl
@[simp] theorem winWrite_ndist (b : Byte) (s : State) : (winWrite b s).ndist = s.ndist := rfl
@[simp] theorem winWrite_nclen (b : Byte) (s : State) : (winWrite b s).nclen = s.nclen := rfl
@[simp] theorem winWrite_index (b : Byte) (s : State) : (winWrite b s).index = s.index := rfl
@[simp] theorem winWrite_cllens (b : Byte) (s : State) : (winWrite b s).cllens = s.cllens := rfl
@[simp] theorem winWrite_lens (b : Byte) (s : State) : (winWrite b s).lens = s.lens := rfl
@[simp] theorem winWrite_lt (b : Byte) (s : State) : (winWrite b s).lt = s.lt := rfl
@[simp] theorem winWrite_dt (b : Byte) (s : State) : (winWrite b s).dt = s.dt := rfl
@[simp] theorem winWrite_ct (b : Byte) (s : State) : (winWrite b s).ct = s.ct := rfl
@[simp] theorem winWrite_lbits (b : Byte) (s : State) : (winWrite b s).lbits = s.lbits := rfl
@[simp] theorem winWrite_dbits (b : Byte) (s : State) : (winWrite b s).dbits = s.dbits := rfl
@[simp] theorem winWrite_cmode (b : Byte) (s : State) : (winWrite b s).cmode = s.cmode := rfl
@[simp] theorem winWrite_tptr (b : Byte) (s : State) : (winWrite b s).tptr = s.tptr := rfl
@[simp] theorem winWrite_tneed (b : Byte) (s : State) : (winWrite b s).tneed = s.tneed := rfl
@[simp] theorem winWrite_litv (b : Byte) (s : State) : (winWrite b s).litv = s.litv := rfl
@[simp] theorem winWrite_lenr (b : Byte) (s : State) : (winWrite b s).lenr = s.lenr := rfl
@[simp] theorem winWrite_ext (b : Byte) (s : State) : (winWrite b s).ext = s.ext := rfl
@[simp] theorem winWrite_distr (b : Byte) (s : State) : (winWrite b s).distr = s.distr := rfl
@[simp] theorem winWrite_win (b : Byte) (s : State) : (winWrite b s).win = winStore s.win s.wr.toNat b := rfl
@[simp] theorem winWrite_wr (b : Byte) (s : State) : (winWrite b s).wr = BitVec.ofNat 15 ((s.wr.toNat + 1) % wsize s) := rfl
@[simp] theorem winWrite_rd (b : Byte) (s : State) : (winWrite b s).rd = s.rd := rfl
@[simp] theorem winWrite_pend (b : Byte) (s : State) : (winWrite b s).pend = s.pend + 1 := rfl
@[simp] theorem winWrite_whave (b : Byte) (s : State) : (winWrite b s).whave = BitVec.ofNat 16 (min (s.whave.toNat + 1) (wsize s)) := rfl
@[simp] theorem winWrite_memIn (b : Byte) (s : State) : (winWrite b s).memIn = s.memIn := rfl
@[simp] theorem winWrite_memOut (b : Byte) (s : State) : (winWrite b s).memOut = s.memOut := rfl
@[simp] theorem winWrite_memDict (b : Byte) (s : State) : (winWrite b s).memDict = s.memDict := rfl
@[simp] theorem winWrite_entryIn (b : Byte) (s : State) : (winWrite b s).entryIn = s.entryIn := rfl
@[simp] theorem winWrite_entryOut (b : Byte) (s : State) : (winWrite b s).entryOut = s.entryOut := rfl
@[simp] theorem winWrite_host (b : Byte) (s : State) : (winWrite b s).host = s.host := rfl
@[simp] theorem winWrite_loop (b : Byte) (s : State) : (winWrite b s).loop = s.loop := rfl
@[simp] theorem winWrite_hostData (b : Byte) (s : State) : (winWrite b s).hostData = s.hostData := rfl
@[simp] theorem winWrite_freeCount (b : Byte) (s : State) : (winWrite b s).freeCount = s.freeCount := rfl

/-! ### `deliver` -/

@[simp] theorem deliver_cmd (s : State) : (deliver s).cmd = s.cmd := rfl
@[simp] theorem deliver_arg (s : State) : (deliver s).arg = s.arg := rfl
@[simp] theorem deliver_busy (s : State) : (deliver s).busy = s.busy := rfl
@[simp] theorem deliver_code (s : State) : (deliver s).code = s.code := rfl
@[simp] theorem deliver_msg (s : State) : (deliver s).msg = s.msg := rfl
@[simp] theorem deliver_nextIn (s : State) : (deliver s).nextIn = s.nextIn := rfl
@[simp] theorem deliver_inBound (s : State) : (deliver s).inBound = s.inBound := rfl
@[simp] theorem deliver_availIn (s : State) : (deliver s).availIn = s.availIn := rfl
@[simp] theorem deliver_nextOut (s : State) : (deliver s).nextOut = s.nextOut + 1 := rfl
@[simp] theorem deliver_outBound (s : State) : (deliver s).outBound = s.outBound := rfl
@[simp] theorem deliver_availOut (s : State) : (deliver s).availOut = s.availOut - 1 := rfl
@[simp] theorem deliver_totalIn (s : State) : (deliver s).totalIn = s.totalIn := rfl
@[simp] theorem deliver_totalOut (s : State) : (deliver s).totalOut = s.totalOut + 1 := rfl
@[simp] theorem deliver_adler (s : State) : (deliver s).adler = adlerStep s.adler (winAt s.win s.rd.toNat) := rfl
@[simp] theorem deliver_dictPtr (s : State) : (deliver s).dictPtr = s.dictPtr := rfl
@[simp] theorem deliver_dictLen (s : State) : (deliver s).dictLen = s.dictLen := rfl
@[simp] theorem deliver_own (s : State) : (deliver s).own = s.own := rfl
@[simp] theorem deliver_mode (s : State) : (deliver s).mode = s.mode := rfl
@[simp] theorem deliver_nowrap (s : State) : (deliver s).nowrap = s.nowrap := rfl
@[simp] theorem deliver_wbitsCfg (s : State) : (deliver s).wbitsCfg = s.wbitsCfg := rfl
@[simp] theorem deliver_wbits (s : State) : (deliver s).wbits = s.wbits := rfl
@[simp] theorem deliver_methodr (s : State) : (deliver s).methodr = s.methodr := rfl
@[simp] theorem deliver_needw (s : State) : (deliver s).needw = s.needw := rfl
@[simp] theorem deliver_wasw (s : State) : (deliver s).wasw = s.wasw := rfl
@[simp] theorem deliver_marker (s : State) : (deliver s).marker = s.marker := rfl
@[simp] theorem deliver_flushr (s : State) : (deliver s).flushr = s.flushr := rfl
@[simp] theorem deliver_bitb (s : State) : (deliver s).bitb = s.bitb := rfl
@[simp] theorem deliver_bitk (s : State) : (deliver s).bitk = s.bitk := rfl
@[simp] theorem deliver_bmode (s : State) : (deliver s).bmode = s.bmode := rfl
@[simp] theorem deliver_last (s : State) : (deliver s).last = s.last := rfl
@[simp] theorem deliver_left (s : State) : (deliver s).left = s.left := rfl
@[simp] theorem deliver_nlen (s : State) : (deliver s).nlen = s.nlen := rfl
@[simp] theorem deliver_ndist (s : State) : (deliver s).ndist = s.ndist := rfl
@[simp] theorem deliver_nclen (s : State) : (deliver s).nclen = s.nclen := rfl
@[simp] theorem deliver_index (s : State) : (deliver s).index = s.index := rfl
@[simp] theorem deliver_cllens (s : State) : (deliver s).cllens = s.cllens := rfl
@[simp] theorem deliver_lens (s : State) : (deliver s).lens = s.lens := rfl
@[simp] theorem deliver_lt (s : State) : (deliver s).lt = s.lt := rfl
@[simp] theorem deliver_dt (s : State) : (deliver s).dt = s.dt := rfl
@[simp] theorem deliver_ct (s : State) : (deliver s).ct = s.ct := rfl
@[simp] theorem deliver_lbits (s : State) : (deliver s).lbits = s.lbits := rfl
@[simp] theorem deliver_dbits (s : State) : (deliver s).dbits = s.dbits := rfl
@[simp] theorem deliver_cmode (s : State) : (deliver s).cmode = s.cmode := rfl
@[simp] theorem deliver_tptr (s : State) : (deliver s).tptr = s.tptr := rfl
@[simp] theorem deliver_tneed (s : State) : (deliver s).tneed = s.tneed := rfl
@[simp] theorem deliver_litv (s : State) : (deliver s).litv = s.litv := rfl
@[simp] theorem deliver_lenr (s : State) : (deliver s).lenr = s.lenr := rfl
@[simp] theorem deliver_ext (s : State) : (deliver s).ext = s.ext := rfl
@[simp] theorem deliver_distr (s : State) : (deliver s).distr = s.distr := rfl
@[simp] theorem deliver_win (s : State) : (deliver s).win = s.win := rfl
@[simp] theorem deliver_wr (s : State) : (deliver s).wr = s.wr := rfl
@[simp] theorem deliver_rd (s : State) : (deliver s).rd = BitVec.ofNat 15 ((s.rd.toNat + 1) % wsize s) := rfl
@[simp] theorem deliver_pend (s : State) : (deliver s).pend = s.pend - 1 := rfl
@[simp] theorem deliver_whave (s : State) : (deliver s).whave = s.whave := rfl
@[simp] theorem deliver_memIn (s : State) : (deliver s).memIn = s.memIn := rfl
@[simp] theorem deliver_memOut (s : State) : (deliver s).memOut = s.memOut.write s.nextOut.toNat (winAt s.win s.rd.toNat) := rfl
@[simp] theorem deliver_memDict (s : State) : (deliver s).memDict = s.memDict := rfl
@[simp] theorem deliver_entryIn (s : State) : (deliver s).entryIn = s.entryIn := rfl
@[simp] theorem deliver_entryOut (s : State) : (deliver s).entryOut = s.entryOut := rfl
@[simp] theorem deliver_host (s : State) : (deliver s).host = s.host := rfl
@[simp] theorem deliver_loop (s : State) : (deliver s).loop = s.loop := rfl
@[simp] theorem deliver_hostData (s : State) : (deliver s).hostData = s.hostData := rfl
@[simp] theorem deliver_freeCount (s : State) : (deliver s).freeCount = s.freeCount := rfl

/-! ### `ret` -/

@[simp] theorem ret_cmd (c : Status) (s : State) : (ret c s).cmd = s.cmd := rfl
@[simp] theorem ret_arg (c : Status) (s : State) : (ret c s).arg = s.arg := rfl
@[simp] theorem ret_busy (c : Status) (s : State) : (ret c s).busy = s.busy := rfl
@[simp] theorem ret_code (c : Status) (s : State) : (ret c s).code = statusCode c := rfl
@[simp] theorem ret_msg (c : Status) (s : State) : (ret c s).msg = s.msg := rfl
@[simp] theorem ret_nextIn (c : Status) (s : State) : (ret c s).nextIn = s.nextIn := rfl
@[simp] theorem ret_inBound (c : Status) (s : State) : (ret c s).inBound = s.inBound := rfl
@[simp] theorem ret_availIn (c : Status) (s : State) : (ret c s).availIn = s.availIn := rfl
@[simp] theorem ret_nextOut (c : Status) (s : State) : (ret c s).nextOut = s.nextOut := rfl
@[simp] theorem ret_outBound (c : Status) (s : State) : (ret c s).outBound = s.outBound := rfl
@[simp] theorem ret_availOut (c : Status) (s : State) : (ret c s).availOut = s.availOut := rfl
@[simp] theorem ret_totalIn (c : Status) (s : State) : (ret c s).totalIn = s.totalIn := rfl
@[simp] theorem ret_totalOut (c : Status) (s : State) : (ret c s).totalOut = s.totalOut := rfl
@[simp] theorem ret_adler (c : Status) (s : State) : (ret c s).adler = s.adler := rfl
@[simp] theorem ret_dictPtr (c : Status) (s : State) : (ret c s).dictPtr = s.dictPtr := rfl
@[simp] theorem ret_dictLen (c : Status) (s : State) : (ret c s).dictLen = s.dictLen := rfl
@[simp] theorem ret_own (c : Status) (s : State) : (ret c s).own = s.own := rfl
@[simp] theorem ret_mode (c : Status) (s : State) : (ret c s).mode = s.mode := rfl
@[simp] theorem ret_nowrap (c : Status) (s : State) : (ret c s).nowrap = s.nowrap := rfl
@[simp] theorem ret_wbitsCfg (c : Status) (s : State) : (ret c s).wbitsCfg = s.wbitsCfg := rfl
@[simp] theorem ret_wbits (c : Status) (s : State) : (ret c s).wbits = s.wbits := rfl
@[simp] theorem ret_methodr (c : Status) (s : State) : (ret c s).methodr = s.methodr := rfl
@[simp] theorem ret_needw (c : Status) (s : State) : (ret c s).needw = s.needw := rfl
@[simp] theorem ret_wasw (c : Status) (s : State) : (ret c s).wasw = s.wasw := rfl
@[simp] theorem ret_marker (c : Status) (s : State) : (ret c s).marker = s.marker := rfl
@[simp] theorem ret_flushr (c : Status) (s : State) : (ret c s).flushr = s.flushr := rfl
@[simp] theorem ret_bitb (c : Status) (s : State) : (ret c s).bitb = s.bitb := rfl
@[simp] theorem ret_bitk (c : Status) (s : State) : (ret c s).bitk = s.bitk := rfl
@[simp] theorem ret_bmode (c : Status) (s : State) : (ret c s).bmode = s.bmode := rfl
@[simp] theorem ret_last (c : Status) (s : State) : (ret c s).last = s.last := rfl
@[simp] theorem ret_left (c : Status) (s : State) : (ret c s).left = s.left := rfl
@[simp] theorem ret_nlen (c : Status) (s : State) : (ret c s).nlen = s.nlen := rfl
@[simp] theorem ret_ndist (c : Status) (s : State) : (ret c s).ndist = s.ndist := rfl
@[simp] theorem ret_nclen (c : Status) (s : State) : (ret c s).nclen = s.nclen := rfl
@[simp] theorem ret_index (c : Status) (s : State) : (ret c s).index = s.index := rfl
@[simp] theorem ret_cllens (c : Status) (s : State) : (ret c s).cllens = s.cllens := rfl
@[simp] theorem ret_lens (c : Status) (s : State) : (ret c s).lens = s.lens := rfl
@[simp] theorem ret_lt (c : Status) (s : State) : (ret c s).lt = s.lt := rfl
@[simp] theorem ret_dt (c : Status) (s : State) : (ret c s).dt = s.dt := rfl
@[simp] theorem ret_ct (c : Status) (s : State) : (ret c s).ct = s.ct := rfl
@[simp] theorem ret_lbits (c : Status) (s : State) : (ret c s).lbits = s.lbits := rfl
@[simp] theorem ret_dbits (c : Status) (s : State) : (ret c s).dbits = s.dbits := rfl
@[simp] theorem ret_cmode (c : Status) (s : State) : (ret c s).cmode = s.cmode := rfl
@[simp] theorem ret_tptr (c : Status) (s : State) : (ret c s).tptr = s.tptr := rfl
@[simp] theorem ret_tneed (c : Status) (s : State) : (ret c s).tneed = s.tneed := rfl
@[simp] theorem ret_litv (c : Status) (s : State) : (ret c s).litv = s.litv := rfl
@[simp] theorem ret_lenr (c : Status) (s : State) : (ret c s).lenr = s.lenr := rfl
@[simp] theorem ret_ext (c : Status) (s : State) : (ret c s).ext = s.ext := rfl
@[simp] theorem ret_distr (c : Status) (s : State) : (ret c s).distr = s.distr := rfl
@[simp] theorem ret_win (c : Status) (s : State) : (ret c s).win = s.win := rfl
@[simp] theorem ret_wr (c : Status) (s : State) : (ret c s).wr = s.wr := rfl
@[simp] theorem ret_rd (c : Status) (s : State) : (ret c s).rd = s.rd := rfl
@[simp] theorem ret_pend (c : Status) (s : State) : (ret c s).pend = s.pend := rfl
@[simp] theorem ret_whave (c : Status) (s : State) : (ret c s).whave = s.whave := rfl
@[simp] theorem ret_memIn (c : Status) (s : State) : (ret c s).memIn = s.memIn := rfl
@[simp] theorem ret_memOut (c : Status) (s : State) : (ret c s).memOut = s.memOut := rfl
@[simp] theorem ret_memDict (c : Status) (s : State) : (ret c s).memDict = s.memDict := rfl
@[simp] theorem ret_entryIn (c : Status) (s : State) : (ret c s).entryIn = s.entryIn := rfl
@[simp] theorem ret_entryOut (c : Status) (s : State) : (ret c s).entryOut = s.entryOut := rfl
@[simp] theorem ret_host (c : Status) (s : State) : (ret c s).host = s.host := rfl
@[simp] theorem ret_loop (c : Status) (s : State) : (ret c s).loop = s.loop := rfl
@[simp] theorem ret_hostData (c : Status) (s : State) : (ret c s).hostData = s.hostData := rfl
@[simp] theorem ret_freeCount (c : Status) (s : State) : (ret c s).freeCount = s.freeCount := rfl

/-! ### `resetWindow` -/

@[simp] theorem resetWindow_cmd (s : State) : (resetWindow s).cmd = s.cmd := rfl
@[simp] theorem resetWindow_arg (s : State) : (resetWindow s).arg = s.arg := rfl
@[simp] theorem resetWindow_busy (s : State) : (resetWindow s).busy = s.busy := rfl
@[simp] theorem resetWindow_code (s : State) : (resetWindow s).code = s.code := rfl
@[simp] theorem resetWindow_msg (s : State) : (resetWindow s).msg = s.msg := rfl
@[simp] theorem resetWindow_nextIn (s : State) : (resetWindow s).nextIn = s.nextIn := rfl
@[simp] theorem resetWindow_inBound (s : State) : (resetWindow s).inBound = s.inBound := rfl
@[simp] theorem resetWindow_availIn (s : State) : (resetWindow s).availIn = s.availIn := rfl
@[simp] theorem resetWindow_nextOut (s : State) : (resetWindow s).nextOut = s.nextOut := rfl
@[simp] theorem resetWindow_outBound (s : State) : (resetWindow s).outBound = s.outBound := rfl
@[simp] theorem resetWindow_availOut (s : State) : (resetWindow s).availOut = s.availOut := rfl
@[simp] theorem resetWindow_totalIn (s : State) : (resetWindow s).totalIn = s.totalIn := rfl
@[simp] theorem resetWindow_totalOut (s : State) : (resetWindow s).totalOut = s.totalOut := rfl
@[simp] theorem resetWindow_adler (s : State) : (resetWindow s).adler = s.adler := rfl
@[simp] theorem resetWindow_dictPtr (s : State) : (resetWindow s).dictPtr = s.dictPtr := rfl
@[simp] theorem resetWindow_dictLen (s : State) : (resetWindow s).dictLen = s.dictLen := rfl
@[simp] theorem resetWindow_own (s : State) : (resetWindow s).own = s.own := rfl
@[simp] theorem resetWindow_mode (s : State) : (resetWindow s).mode = s.mode := rfl
@[simp] theorem resetWindow_nowrap (s : State) : (resetWindow s).nowrap = s.nowrap := rfl
@[simp] theorem resetWindow_wbitsCfg (s : State) : (resetWindow s).wbitsCfg = s.wbitsCfg := rfl
@[simp] theorem resetWindow_wbits (s : State) : (resetWindow s).wbits = s.wbits := rfl
@[simp] theorem resetWindow_methodr (s : State) : (resetWindow s).methodr = s.methodr := rfl
@[simp] theorem resetWindow_needw (s : State) : (resetWindow s).needw = s.needw := rfl
@[simp] theorem resetWindow_wasw (s : State) : (resetWindow s).wasw = s.wasw := rfl
@[simp] theorem resetWindow_marker (s : State) : (resetWindow s).marker = s.marker := rfl
@[simp] theorem resetWindow_flushr (s : State) : (resetWindow s).flushr = s.flushr := rfl
@[simp] theorem resetWindow_bitb (s : State) : (resetWindow s).bitb = s.bitb := rfl
@[simp] theorem resetWindow_bitk (s : State) : (resetWindow s).bitk = s.bitk := rfl
@[simp] theorem resetWindow_bmode (s : State) : (resetWindow s).bmode = s.bmode := rfl
@[simp] theorem resetWindow_last (s : State) : (resetWindow s).last = s.last := rfl
@[simp] theorem resetWindow_left (s : State) : (resetWindow s).left = s.left := rfl
@[simp] theorem resetWindow_nlen (s : State) : (resetWindow s).nlen = s.nlen := rfl
@[simp] theorem resetWindow_ndist (s : State) : (resetWindow s).ndist = s.ndist := rfl
@[simp] theorem resetWindow_nclen (s : State) : (resetWindow s).nclen = s.nclen := rfl
@[simp] theorem resetWindow_index (s : State) : (resetWindow s).index = s.index := rfl
@[simp] theorem resetWindow_cllens (s : State) : (resetWindow s).cllens = s.cllens := rfl
@[simp] theorem resetWindow_lens (s : State) : (resetWindow s).lens = s.lens := rfl
@[simp] theorem resetWindow_lt (s : State) : (resetWindow s).lt = s.lt := rfl
@[simp] theorem resetWindow_dt (s : State) : (resetWindow s).dt = s.dt := rfl
@[simp] theorem resetWindow_ct (s : State) : (resetWindow s).ct = s.ct := rfl
@[simp] theorem resetWindow_lbits (s : State) : (resetWindow s).lbits = s.lbits := rfl
@[simp] theorem resetWindow_dbits (s : State) : (resetWindow s).dbits = s.dbits := rfl
@[simp] theorem resetWindow_cmode (s : State) : (resetWindow s).cmode = s.cmode := rfl
@[simp] theorem resetWindow_tptr (s : State) : (resetWindow s).tptr = s.tptr := rfl
@[simp] theorem resetWindow_tneed (s : State) : (resetWindow s).tneed = s.tneed := rfl
@[simp] theorem resetWindow_litv (s : State) : (resetWindow s).litv = s.litv := rfl
@[simp] theorem resetWindow_lenr (s : State) : (resetWindow s).lenr = s.lenr := rfl
@[simp] theorem resetWindow_ext (s : State) : (resetWindow s).ext = s.ext := rfl
@[simp] theorem resetWindow_distr (s : State) : (resetWindow s).distr = s.distr := rfl
@[simp] theorem resetWindow_win (s : State) : (resetWindow s).win = s.win := rfl
@[simp] theorem resetWindow_wr (s : State) : (resetWindow s).wr = 0 := rfl
@[simp] theorem resetWindow_rd (s : State) : (resetWindow s).rd = 0 := rfl
@[simp] theorem resetWindow_pend (s : State) : (resetWindow s).pend = 0 := rfl
@[simp] theorem resetWindow_whave (s : State) : (resetWindow s).whave = 0 := rfl
@[simp] theorem resetWindow_memIn (s : State) : (resetWindow s).memIn = s.memIn := rfl
@[simp] theorem resetWindow_memOut (s : State) : (resetWindow s).memOut = s.memOut := rfl
@[simp] theorem resetWindow_memDict (s : State) : (resetWindow s).memDict = s.memDict := rfl
@[simp] theorem resetWindow_entryIn (s : State) : (resetWindow s).entryIn = s.entryIn := rfl
@[simp] theorem resetWindow_entryOut (s : State) : (resetWindow s).entryOut = s.entryOut := rfl
@[simp] theorem resetWindow_host (s : State) : (resetWindow s).host = s.host := rfl
@[simp] theorem resetWindow_loop (s : State) : (resetWindow s).loop = s.loop := rfl
@[simp] theorem resetWindow_hostData (s : State) : (resetWindow s).hostData = s.hostData := rfl
@[simp] theorem resetWindow_freeCount (s : State) : (resetWindow s).freeCount = s.freeCount := rfl

/-! ### `resetState` -/

@[simp] theorem resetState_cmd (s : State) : (resetState s).cmd = s.cmd := rfl
@[simp] theorem resetState_arg (s : State) : (resetState s).arg = s.arg := rfl
@[simp] theorem resetState_busy (s : State) : (resetState s).busy = s.busy := rfl
@[simp] theorem resetState_code (s : State) : (resetState s).code = s.code := rfl
@[simp] theorem resetState_msg (s : State) : (resetState s).msg = 0 := rfl
@[simp] theorem resetState_nextIn (s : State) : (resetState s).nextIn = s.nextIn := rfl
@[simp] theorem resetState_inBound (s : State) : (resetState s).inBound = s.inBound := rfl
@[simp] theorem resetState_availIn (s : State) : (resetState s).availIn = s.availIn := rfl
@[simp] theorem resetState_nextOut (s : State) : (resetState s).nextOut = s.nextOut := rfl
@[simp] theorem resetState_outBound (s : State) : (resetState s).outBound = s.outBound := rfl
@[simp] theorem resetState_availOut (s : State) : (resetState s).availOut = s.availOut := rfl
@[simp] theorem resetState_totalIn (s : State) : (resetState s).totalIn = 0 := rfl
@[simp] theorem resetState_totalOut (s : State) : (resetState s).totalOut = 0 := rfl
@[simp] theorem resetState_adler (s : State) : (resetState s).adler = 1 := rfl
@[simp] theorem resetState_dictPtr (s : State) : (resetState s).dictPtr = s.dictPtr := rfl
@[simp] theorem resetState_dictLen (s : State) : (resetState s).dictLen = s.dictLen := rfl
@[simp] theorem resetState_own (s : State) : (resetState s).own = s.own := rfl
@[simp] theorem resetState_mode (s : State) : (resetState s).mode = if s.nowrap then .blocks else .method := rfl
@[simp] theorem resetState_nowrap (s : State) : (resetState s).nowrap = s.nowrap := rfl
@[simp] theorem resetState_wbitsCfg (s : State) : (resetState s).wbitsCfg = s.wbitsCfg := rfl
@[simp] theorem resetState_wbits (s : State) : (resetState s).wbits = s.wbitsCfg := rfl
@[simp] theorem resetState_methodr (s : State) : (resetState s).methodr = 0 := rfl
@[simp] theorem resetState_needw (s : State) : (resetState s).needw = 0 := rfl
@[simp] theorem resetState_wasw (s : State) : (resetState s).wasw = 0 := rfl
@[simp] theorem resetState_marker (s : State) : (resetState s).marker = 0 := rfl
@[simp] theorem resetState_flushr (s : State) : (resetState s).flushr = 0 := rfl
@[simp] theorem resetState_bitb (s : State) : (resetState s).bitb = 0 := rfl
@[simp] theorem resetState_bitk (s : State) : (resetState s).bitk = 0 := rfl
@[simp] theorem resetState_bmode (s : State) : (resetState s).bmode = .type := rfl
@[simp] theorem resetState_last (s : State) : (resetState s).last = false := rfl
@[simp] theorem resetState_left (s : State) : (resetState s).left = 0 := rfl
@[simp] theorem resetState_nlen (s : State) : (resetState s).nlen = s.nlen := rfl
@[simp] theorem resetState_ndist (s : State) : (resetState s).ndist = s.ndist := rfl
@[simp] theorem resetState_nclen (s : State) : (resetState s).nclen = s.nclen := rfl
@[simp] theorem resetState_index (s : State) : (resetState s).index = 0 := rfl
@[simp] theorem resetState_cllens (s : State) : (resetState s).cllens = s.cllens := rfl
@[simp] theorem resetState_lens (s : State) : (resetState s).lens = s.lens := rfl
@[simp] theorem resetState_lt (s : State) : (resetState s).lt = s.lt := rfl
@[simp] theorem resetState_dt (s : State) : (resetState s).dt = s.dt := rfl
@[simp] theorem resetState_ct (s : State) : (resetState s).ct = s.ct := rfl
@[simp] theorem resetState_lbits (s : State) : (resetState s).lbits = s.lbits := rfl
@[simp] theorem resetState_dbits (s : State) : (resetState s).dbits = s.dbits := rfl
@[simp] theorem resetState_cmode (s : State) : (resetState s).cmode = .start := rfl
@[simp] theorem resetState_tptr (s : State) : (resetState s).tptr = s.tptr := rfl
@[simp] theorem resetState_tneed (s : State) : (resetState s).tneed = s.tneed := rfl
@[simp] theorem resetState_litv (s : State) : (resetState s).litv = s.litv := rfl
@[simp] theorem resetState_lenr (s : State) : (resetState s).lenr = s.lenr := rfl
@[simp] theorem resetState_ext (s : State) : (resetState s).ext = s.ext := rfl
@[simp] theorem resetState_distr (s : State) : (resetState s).distr = s.distr := rfl
@[simp] theorem resetState_win (s : State) : (resetState s).win = s.win := rfl
@[simp] theorem resetState_wr (s : State) : (resetState s).wr = 0 := rfl
@[simp] theorem resetState_rd (s : State) : (resetState s).rd = 0 := rfl
@[simp] theorem resetState_pend (s : State) : (resetState s).pend = 0 := rfl
@[simp] theorem resetState_whave (s : State) : (resetState s).whave = 0 := rfl
@[simp] theorem resetState_memIn (s : State) : (resetState s).memIn = s.memIn := rfl
@[simp] theorem resetState_memOut (s : State) : (resetState s).memOut = s.memOut := rfl
@[simp] theorem resetState_memDict (s : State) : (resetState s).memDict = s.memDict := rfl
@[simp] theorem resetState_entryIn (s : State) : (resetState s).entryIn = s.entryIn := rfl
@[simp] theorem resetState_entryOut (s : State) : (resetState s).entryOut = s.entryOut := rfl
@[simp] theorem resetState_host (s : State) : (resetState s).host = s.host := rfl
@[simp] theorem resetState_loop (s : State) : (resetState s).loop = s.loop := rfl
@[simp] theorem resetState_hostData (s : State) : (resetState s).hostData = s.hostData := rfl
@[simp] theorem resetState_freeCount (s : State) : (resetState s).freeCount = s.freeCount := rfl

/-! ### `say`: the host lays down its next moves -/

@[simp] theorem say_cmd (ms : List HostMove) (l : HostLoop) (s : State) : (say ms l s).cmd = s.cmd := rfl
@[simp] theorem say_arg (ms : List HostMove) (l : HostLoop) (s : State) : (say ms l s).arg = s.arg := rfl
@[simp] theorem say_busy (ms : List HostMove) (l : HostLoop) (s : State) : (say ms l s).busy = s.busy := rfl
@[simp] theorem say_code (ms : List HostMove) (l : HostLoop) (s : State) : (say ms l s).code = s.code := rfl
@[simp] theorem say_msg (ms : List HostMove) (l : HostLoop) (s : State) : (say ms l s).msg = s.msg := rfl
@[simp] theorem say_nextIn (ms : List HostMove) (l : HostLoop) (s : State) : (say ms l s).nextIn = s.nextIn := rfl
@[simp] theorem say_inBound (ms : List HostMove) (l : HostLoop) (s : State) : (say ms l s).inBound = s.inBound := rfl
@[simp] theorem say_availIn (ms : List HostMove) (l : HostLoop) (s : State) : (say ms l s).availIn = s.availIn := rfl
@[simp] theorem say_nextOut (ms : List HostMove) (l : HostLoop) (s : State) : (say ms l s).nextOut = s.nextOut := rfl
@[simp] theorem say_outBound (ms : List HostMove) (l : HostLoop) (s : State) : (say ms l s).outBound = s.outBound := rfl
@[simp] theorem say_availOut (ms : List HostMove) (l : HostLoop) (s : State) : (say ms l s).availOut = s.availOut := rfl
@[simp] theorem say_totalIn (ms : List HostMove) (l : HostLoop) (s : State) : (say ms l s).totalIn = s.totalIn := rfl
@[simp] theorem say_totalOut (ms : List HostMove) (l : HostLoop) (s : State) : (say ms l s).totalOut = s.totalOut := rfl
@[simp] theorem say_adler (ms : List HostMove) (l : HostLoop) (s : State) : (say ms l s).adler = s.adler := rfl
@[simp] theorem say_dictPtr (ms : List HostMove) (l : HostLoop) (s : State) : (say ms l s).dictPtr = s.dictPtr := rfl
@[simp] theorem say_dictLen (ms : List HostMove) (l : HostLoop) (s : State) : (say ms l s).dictLen = s.dictLen := rfl
@[simp] theorem say_own (ms : List HostMove) (l : HostLoop) (s : State) : (say ms l s).own = s.own := rfl
@[simp] theorem say_mode (ms : List HostMove) (l : HostLoop) (s : State) : (say ms l s).mode = s.mode := rfl
@[simp] theorem say_nowrap (ms : List HostMove) (l : HostLoop) (s : State) : (say ms l s).nowrap = s.nowrap := rfl
@[simp] theorem say_wbitsCfg (ms : List HostMove) (l : HostLoop) (s : State) : (say ms l s).wbitsCfg = s.wbitsCfg := rfl
@[simp] theorem say_wbits (ms : List HostMove) (l : HostLoop) (s : State) : (say ms l s).wbits = s.wbits := rfl
@[simp] theorem say_methodr (ms : List HostMove) (l : HostLoop) (s : State) : (say ms l s).methodr = s.methodr := rfl
@[simp] theorem say_needw (ms : List HostMove) (l : HostLoop) (s : State) : (say ms l s).needw = s.needw := rfl
@[simp] theorem say_wasw (ms : List HostMove) (l : HostLoop) (s : State) : (say ms l s).wasw = s.wasw := rfl
@[simp] theorem say_marker (ms : List HostMove) (l : HostLoop) (s : State) : (say ms l s).marker = s.marker := rfl
@[simp] theorem say_flushr (ms : List HostMove) (l : HostLoop) (s : State) : (say ms l s).flushr = s.flushr := rfl
@[simp] theorem say_bitb (ms : List HostMove) (l : HostLoop) (s : State) : (say ms l s).bitb = s.bitb := rfl
@[simp] theorem say_bitk (ms : List HostMove) (l : HostLoop) (s : State) : (say ms l s).bitk = s.bitk := rfl
@[simp] theorem say_bmode (ms : List HostMove) (l : HostLoop) (s : State) : (say ms l s).bmode = s.bmode := rfl
@[simp] theorem say_last (ms : List HostMove) (l : HostLoop) (s : State) : (say ms l s).last = s.last := rfl
@[simp] theorem say_left (ms : List HostMove) (l : HostLoop) (s : State) : (say ms l s).left = s.left := rfl
@[simp] theorem say_nlen (ms : List HostMove) (l : HostLoop) (s : State) : (say ms l s).nlen = s.nlen := rfl
@[simp] theorem say_ndist (ms : List HostMove) (l : HostLoop) (s : State) : (say ms l s).ndist = s.ndist := rfl
@[simp] theorem say_nclen (ms : List HostMove) (l : HostLoop) (s : State) : (say ms l s).nclen = s.nclen := rfl
@[simp] theorem say_index (ms : List HostMove) (l : HostLoop) (s : State) : (say ms l s).index = s.index := rfl
@[simp] theorem say_cllens (ms : List HostMove) (l : HostLoop) (s : State) : (say ms l s).cllens = s.cllens := rfl
@[simp] theorem say_lens (ms : List HostMove) (l : HostLoop) (s : State) : (say ms l s).lens = s.lens := rfl
@[simp] theorem say_lt (ms : List HostMove) (l : HostLoop) (s : State) : (say ms l s).lt = s.lt := rfl
@[simp] theorem say_dt (ms : List HostMove) (l : HostLoop) (s : State) : (say ms l s).dt = s.dt := rfl
@[simp] theorem say_ct (ms : List HostMove) (l : HostLoop) (s : State) : (say ms l s).ct = s.ct := rfl
@[simp] theorem say_lbits (ms : List HostMove) (l : HostLoop) (s : State) : (say ms l s).lbits = s.lbits := rfl
@[simp] theorem say_dbits (ms : List HostMove) (l : HostLoop) (s : State) : (say ms l s).dbits = s.dbits := rfl
@[simp] theorem say_cmode (ms : List HostMove) (l : HostLoop) (s : State) : (say ms l s).cmode = s.cmode := rfl
@[simp] theorem say_tptr (ms : List HostMove) (l : HostLoop) (s : State) : (say ms l s).tptr = s.tptr := rfl
@[simp] theorem say_tneed (ms : List HostMove) (l : HostLoop) (s : State) : (say ms l s).tneed = s.tneed := rfl
@[simp] theorem say_litv (ms : List HostMove) (l : HostLoop) (s : State) : (say ms l s).litv = s.litv := rfl
@[simp] theorem say_lenr (ms : List HostMove) (l : HostLoop) (s : State) : (say ms l s).lenr = s.lenr := rfl
@[simp] theorem say_ext (ms : List HostMove) (l : HostLoop) (s : State) : (say ms l s).ext = s.ext := rfl
@[simp] theorem say_distr (ms : List HostMove) (l : HostLoop) (s : State) : (say ms l s).distr = s.distr := rfl
@[simp] theorem say_win (ms : List HostMove) (l : HostLoop) (s : State) : (say ms l s).win = s.win := rfl
@[simp] theorem say_wr (ms : List HostMove) (l : HostLoop) (s : State) : (say ms l s).wr = s.wr := rfl
@[simp] theorem say_rd (ms : List HostMove) (l : HostLoop) (s : State) : (say ms l s).rd = s.rd := rfl
@[simp] theorem say_pend (ms : List HostMove) (l : HostLoop) (s : State) : (say ms l s).pend = s.pend := rfl
@[simp] theorem say_whave (ms : List HostMove) (l : HostLoop) (s : State) : (say ms l s).whave = s.whave := rfl
@[simp] theorem say_memIn (ms : List HostMove) (l : HostLoop) (s : State) : (say ms l s).memIn = s.memIn := rfl
@[simp] theorem say_memOut (ms : List HostMove) (l : HostLoop) (s : State) : (say ms l s).memOut = s.memOut := rfl
@[simp] theorem say_memDict (ms : List HostMove) (l : HostLoop) (s : State) : (say ms l s).memDict = s.memDict := rfl
@[simp] theorem say_entryIn (ms : List HostMove) (l : HostLoop) (s : State) : (say ms l s).entryIn = s.entryIn := rfl
@[simp] theorem say_entryOut (ms : List HostMove) (l : HostLoop) (s : State) : (say ms l s).entryOut = s.entryOut := rfl
@[simp] theorem say_host (ms : List HostMove) (l : HostLoop) (s : State) : (say ms l s).host = ms := rfl
@[simp] theorem say_loop (ms : List HostMove) (l : HostLoop) (s : State) : (say ms l s).loop = some l := rfl
@[simp] theorem say_hostData (ms : List HostMove) (l : HostLoop) (s : State) : (say ms l s).hostData = s.hostData := rfl
@[simp] theorem say_freeCount (ms : List HostMove) (l : HostLoop) (s : State) : (say ms l s).freeCount = s.freeCount := rfl

/-! ### `deliverN` and `flush`: the registers that delivery leaves alone -/

@[simp] theorem deliverN_cmd (k : Nat) (s : State) : (deliverN k s).cmd = s.cmd := by
  induction k generalizing s with
  | zero => rfl
  | succ k ih => exact ih (deliver s)
@[simp] theorem deliverN_arg (k : Nat) (s : State) : (deliverN k s).arg = s.arg := by
  induction k generalizing s with
  | zero => rfl
  | succ k ih => exact ih (deliver s)
@[simp] theorem deliverN_busy (k : Nat) (s : State) : (deliverN k s).busy = s.busy := by
  induction k generalizing s with
  | zero => rfl
  | succ k ih => exact ih (deliver s)
@[simp] theorem deliverN_code (k : Nat) (s : State) : (deliverN k s).code = s.code := by
  induction k generalizing s with
  | zero => rfl
  | succ k ih => exact ih (deliver s)
@[simp] theorem deliverN_msg (k : Nat) (s : State) : (deliverN k s).msg = s.msg := by
  induction k generalizing s with
  | zero => rfl
  | succ k ih => exact ih (deliver s)
@[simp] theorem deliverN_nextIn (k : Nat) (s : State) : (deliverN k s).nextIn = s.nextIn := by
  induction k generalizing s with
  | zero => rfl
  | succ k ih => exact ih (deliver s)
@[simp] theorem deliverN_inBound (k : Nat) (s : State) : (deliverN k s).inBound = s.inBound := by
  induction k generalizing s with
  | zero => rfl
  | succ k ih => exact ih (deliver s)
@[simp] theorem deliverN_availIn (k : Nat) (s : State) : (deliverN k s).availIn = s.availIn := by
  induction k generalizing s with
  | zero => rfl
  | succ k ih => exact ih (deliver s)
@[simp] theorem deliverN_outBound (k : Nat) (s : State) : (deliverN k s).outBound = s.outBound := by
  induction k generalizing s with
  | zero => rfl
  | succ k ih => exact ih (deliver s)
@[simp] theorem deliverN_totalIn (k : Nat) (s : State) : (deliverN k s).totalIn = s.totalIn := by
  induction k generalizing s with
  | zero => rfl
  | succ k ih => exact ih (deliver s)
@[simp] theorem deliverN_dictPtr (k : Nat) (s : State) : (deliverN k s).dictPtr = s.dictPtr := by
  induction k generalizing s with
  | zero => rfl
  | succ k ih => exact ih (deliver s)
@[simp] theorem deliverN_dictLen (k : Nat) (s : State) : (deliverN k s).dictLen = s.dictLen := by
  induction k generalizing s with
  | zero => rfl
  | succ k ih => exact ih (deliver s)
@[simp] theorem deliverN_own (k : Nat) (s : State) : (deliverN k s).own = s.own := by
  induction k generalizing s with
  | zero => rfl
  | succ k ih => exact ih (deliver s)
@[simp] theorem deliverN_mode (k : Nat) (s : State) : (deliverN k s).mode = s.mode := by
  induction k generalizing s with
  | zero => rfl
  | succ k ih => exact ih (deliver s)
@[simp] theorem deliverN_nowrap (k : Nat) (s : State) : (deliverN k s).nowrap = s.nowrap := by
  induction k generalizing s with
  | zero => rfl
  | succ k ih => exact ih (deliver s)
@[simp] theorem deliverN_wbitsCfg (k : Nat) (s : State) : (deliverN k s).wbitsCfg = s.wbitsCfg := by
  induction k generalizing s with
  | zero => rfl
  | succ k ih => exact ih (deliver s)
@[simp] theorem deliverN_wbits (k : Nat) (s : State) : (deliverN k s).wbits = s.wbits := by
  induction k generalizing s with
  | zero => rfl
  | succ k ih => exact ih (deliver s)
@[simp] theorem deliverN_methodr (k : Nat) (s : State) : (deliverN k s).methodr = s.methodr := by
  induction k generalizing s with
  | zero => rfl
  | succ k ih => exact ih (deliver s)
@[simp] theorem deliverN_needw (k : Nat) (s : State) : (deliverN k s).needw = s.needw := by
  induction k generalizing s with
  | zero => rfl
  | succ k ih => exact ih (deliver s)
@[simp] theorem deliverN_wasw (k : Nat) (s : State) : (deliverN k s).wasw = s.wasw := by
  induction k generalizing s with
  | zero => rfl
  | succ k ih => exact ih (deliver s)
@[simp] theorem deliverN_marker (k : Nat) (s : State) : (deliverN k s).marker = s.marker := by
  induction k generalizing s with
  | zero => rfl
  | succ k ih => exact ih (deliver s)
@[simp] theorem deliverN_flushr (k : Nat) (s : State) : (deliverN k s).flushr = s.flushr := by
  induction k generalizing s with
  | zero => rfl
  | succ k ih => exact ih (deliver s)
@[simp] theorem deliverN_bitb (k : Nat) (s : State) : (deliverN k s).bitb = s.bitb := by
  induction k generalizing s with
  | zero => rfl
  | succ k ih => exact ih (deliver s)
@[simp] theorem deliverN_bitk (k : Nat) (s : State) : (deliverN k s).bitk = s.bitk := by
  induction k generalizing s with
  | zero => rfl
  | succ k ih => exact ih (deliver s)
@[simp] theorem deliverN_bmode (k : Nat) (s : State) : (deliverN k s).bmode = s.bmode := by
  induction k generalizing s with
  | zero => rfl
  | succ k ih => exact ih (deliver s)
@[simp] theorem deliverN_last (k : Nat) (s : State) : (deliverN k s).last = s.last := by
  induction k generalizing s with
  | zero => rfl
  | succ k ih => exact ih (deliver s)
@[simp] theorem deliverN_left (k : Nat) (s : State) : (deliverN k s).left = s.left := by
  induction k generalizing s with
  | zero => rfl
  | succ k ih => exact ih (deliver s)
@[simp] theorem deliverN_nlen (k : Nat) (s : State) : (deliverN k s).nlen = s.nlen := by
  induction k generalizing s with
  | zero => rfl
  | succ k ih => exact ih (deliver s)
@[simp] theorem deliverN_ndist (k : Nat) (s : State) : (deliverN k s).ndist = s.ndist := by
  induction k generalizing s with
  | zero => rfl
  | succ k ih => exact ih (deliver s)
@[simp] theorem deliverN_nclen (k : Nat) (s : State) : (deliverN k s).nclen = s.nclen := by
  induction k generalizing s with
  | zero => rfl
  | succ k ih => exact ih (deliver s)
@[simp] theorem deliverN_index (k : Nat) (s : State) : (deliverN k s).index = s.index := by
  induction k generalizing s with
  | zero => rfl
  | succ k ih => exact ih (deliver s)
@[simp] theorem deliverN_cllens (k : Nat) (s : State) : (deliverN k s).cllens = s.cllens := by
  induction k generalizing s with
  | zero => rfl
  | succ k ih => exact ih (deliver s)
@[simp] theorem deliverN_lens (k : Nat) (s : State) : (deliverN k s).lens = s.lens := by
  induction k generalizing s with
  | zero => rfl
  | succ k ih => exact ih (deliver s)
@[simp] theorem deliverN_lt (k : Nat) (s : State) : (deliverN k s).lt = s.lt := by
  induction k generalizing s with
  | zero => rfl
  | succ k ih => exact ih (deliver s)
@[simp] theorem deliverN_dt (k : Nat) (s : State) : (deliverN k s).dt = s.dt := by
  induction k generalizing s with
  | zero => rfl
  | succ k ih => exact ih (deliver s)
@[simp] theorem deliverN_ct (k : Nat) (s : State) : (deliverN k s).ct = s.ct := by
  induction k generalizing s with
  | zero => rfl
  | succ k ih => exact ih (deliver s)
@[simp] theorem deliverN_lbits (k : Nat) (s : State) : (deliverN k s).lbits = s.lbits := by
  induction k generalizing s with
  | zero => rfl
  | succ k ih => exact ih (deliver s)
@[simp] theorem deliverN_dbits (k : Nat) (s : State) : (deliverN k s).dbits = s.dbits := by
  induction k generalizing s with
  | zero => rfl
  | succ k ih => exact ih (deliver s)
@[simp] theorem deliverN_cmode (k : Nat) (s : State) : (deliverN k s).cmode = s.cmode := by
  induction k generalizing s with
  | zero => rfl
  | succ k ih => exact ih (deliver s)
@[simp] theorem deliverN_tptr (k : Nat) (s : State) : (deliverN k s).tptr = s.tptr := by
  induction k generalizing s with
  | zero => rfl
  | succ k ih => exact ih (deliver s)
@[simp] theorem deliverN_tneed (k : Nat) (s : State) : (deliverN k s).tneed = s.tneed := by
  induction k generalizing s with
  | zero => rfl
  | succ k ih => exact ih (deliver s)
@[simp] theorem deliverN_litv (k : Nat) (s : State) : (deliverN k s).litv = s.litv := by
  induction k generalizing s with
  | zero => rfl
  | succ k ih => exact ih (deliver s)
@[simp] theorem deliverN_lenr (k : Nat) (s : State) : (deliverN k s).lenr = s.lenr := by
  induction k generalizing s with
  | zero => rfl
  | succ k ih => exact ih (deliver s)
@[simp] theorem deliverN_ext (k : Nat) (s : State) : (deliverN k s).ext = s.ext := by
  induction k generalizing s with
  | zero => rfl
  | succ k ih => exact ih (deliver s)
@[simp] theorem deliverN_distr (k : Nat) (s : State) : (deliverN k s).distr = s.distr := by
  induction k generalizing s with
  | zero => rfl
  | succ k ih => exact ih (deliver s)
@[simp] theorem deliverN_win (k : Nat) (s : State) : (deliverN k s).win = s.win := by
  induction k generalizing s with
  | zero => rfl
  | succ k ih => exact ih (deliver s)
@[simp] theorem deliverN_wr (k : Nat) (s : State) : (deliverN k s).wr = s.wr := by
  induction k generalizing s with
  | zero => rfl
  | succ k ih => exact ih (deliver s)
@[simp] theorem deliverN_whave (k : Nat) (s : State) : (deliverN k s).whave = s.whave := by
  induction k generalizing s with
  | zero => rfl
  | succ k ih => exact ih (deliver s)
@[simp] theorem deliverN_memIn (k : Nat) (s : State) : (deliverN k s).memIn = s.memIn := by
  induction k generalizing s with
  | zero => rfl
  | succ k ih => exact ih (deliver s)
@[simp] theorem deliverN_memDict (k : Nat) (s : State) : (deliverN k s).memDict = s.memDict := by
  induction k generalizing s with
  | zero => rfl
  | succ k ih => exact ih (deliver s)
@[simp] theorem deliverN_entryIn (k : Nat) (s : State) : (deliverN k s).entryIn = s.entryIn := by
  induction k generalizing s with
  | zero => rfl
  | succ k ih => exact ih (deliver s)
@[simp] theorem deliverN_entryOut (k : Nat) (s : State) : (deliverN k s).entryOut = s.entryOut := by
  induction k generalizing s with
  | zero => rfl
  | succ k ih => exact ih (deliver s)
@[simp] theorem deliverN_host (k : Nat) (s : State) : (deliverN k s).host = s.host := by
  induction k generalizing s with
  | zero => rfl
  | succ k ih => exact ih (deliver s)
@[simp] theorem deliverN_loop (k : Nat) (s : State) : (deliverN k s).loop = s.loop := by
  induction k generalizing s with
  | zero => rfl
  | succ k ih => exact ih (deliver s)
@[simp] theorem deliverN_hostData (k : Nat) (s : State) : (deliverN k s).hostData = s.hostData := by
  induction k generalizing s with
  | zero => rfl
  | succ k ih => exact ih (deliver s)
@[simp] theorem deliverN_freeCount (k : Nat) (s : State) : (deliverN k s).freeCount = s.freeCount := by
  induction k generalizing s with
  | zero => rfl
  | succ k ih => exact ih (deliver s)
@[simp] theorem flush_cmd (s : State) : (flush s).cmd = s.cmd := deliverN_cmd _ s
@[simp] theorem flush_arg (s : State) : (flush s).arg = s.arg := deliverN_arg _ s
@[simp] theorem flush_busy (s : State) : (flush s).busy = s.busy := deliverN_busy _ s
@[simp] theorem flush_code (s : State) : (flush s).code = s.code := deliverN_code _ s
@[simp] theorem flush_msg (s : State) : (flush s).msg = s.msg := deliverN_msg _ s
@[simp] theorem flush_nextIn (s : State) : (flush s).nextIn = s.nextIn := deliverN_nextIn _ s
@[simp] theorem flush_inBound (s : State) : (flush s).inBound = s.inBound := deliverN_inBound _ s
@[simp] theorem flush_availIn (s : State) : (flush s).availIn = s.availIn := deliverN_availIn _ s
@[simp] theorem flush_outBound (s : State) : (flush s).outBound = s.outBound := deliverN_outBound _ s
@[simp] theorem flush_totalIn (s : State) : (flush s).totalIn = s.totalIn := deliverN_totalIn _ s
@[simp] theorem flush_dictPtr (s : State) : (flush s).dictPtr = s.dictPtr := deliverN_dictPtr _ s
@[simp] theorem flush_dictLen (s : State) : (flush s).dictLen = s.dictLen := deliverN_dictLen _ s
@[simp] theorem flush_own (s : State) : (flush s).own = s.own := deliverN_own _ s
@[simp] theorem flush_mode (s : State) : (flush s).mode = s.mode := deliverN_mode _ s
@[simp] theorem flush_nowrap (s : State) : (flush s).nowrap = s.nowrap := deliverN_nowrap _ s
@[simp] theorem flush_wbitsCfg (s : State) : (flush s).wbitsCfg = s.wbitsCfg := deliverN_wbitsCfg _ s
@[simp] theorem flush_wbits (s : State) : (flush s).wbits = s.wbits := deliverN_wbits _ s
@[simp] theorem flush_methodr (s : State) : (flush s).methodr = s.methodr := deliverN_methodr _ s
@[simp] theorem flush_needw (s : State) : (flush s).needw = s.needw := deliverN_needw _ s
@[simp] theorem flush_wasw (s : State) : (flush s).wasw = s.wasw := deliverN_wasw _ s
@[simp] theorem flush_marker (s : State) : (flush s).marker = s.marker := deliverN_marker _ s
@[simp] theorem flush_flushr (s : State) : (flush s).flushr = s.flushr := deliverN_flushr _ s
@[simp] theorem flush_bitb (s : State) : (flush s).bitb = s.bitb := deliverN_bitb _ s
@[simp] theorem flush_bitk (s : State) : (flush s).bitk = s.bitk := deliverN_bitk _ s
@[simp] theorem flush_bmode (s : State) : (flush s).bmode = s.bmode := deliverN_bmode _ s
@[simp] theorem flush_last (s : State) : (flush s).last = s.last := deliverN_last _ s
@[simp] theorem flush_left (s : State) : (flush s).left = s.left := deliverN_left _ s
@[simp] theorem flush_nlen (s : State) : (flush s).nlen = s.nlen := deliverN_nlen _ s
@[simp] theorem flush_ndist (s : State) : (flush s).ndist = s.ndist := deliverN_ndist _ s
@[simp] theorem flush_nclen (s : State) : (flush s).nclen = s.nclen := deliverN_nclen _ s
@[simp] theorem flush_index (s : State) : (flush s).index = s.index := deliverN_index _ s
@[simp] theorem flush_cllens (s : State) : (flush s).cllens = s.cllens := deliverN_cllens _ s
@[simp] theorem flush_lens (s : State) : (flush s).lens = s.lens := deliverN_lens _ s
@[simp] theorem flush_lt (s : State) : (flush s).lt = s.lt := deliverN_lt _ s
@[simp] theorem flush_dt (s : State) : (flush s).dt = s.dt := deliverN_dt _ s
@[simp] theorem flush_ct (s : State) : (flush s).ct = s.ct := deliverN_ct _ s
@[simp] theorem flush_lbits (s : State) : (flush s).lbits = s.lbits := deliverN_lbits _ s
@[simp] theorem flush_dbits (s : State) : (flush s).dbits = s.dbits := deliverN_dbits _ s
@[simp] theorem flush_cmode (s : State) : (flush s).cmode = s.cmode := deliverN_cmode _ s
@[simp] theorem flush_tptr (s : State) : (flush s).tptr = s.tptr := deliverN_tptr _ s
@[simp] theorem flush_tneed (s : State) : (flush s).tneed = s.tneed := deliverN_tneed _ s
@[simp] theorem flush_litv (s : State) : (flush s).litv = s.litv := deliverN_litv _ s
@[simp] theorem flush_lenr (s : State) : (flush s).lenr = s.lenr := deliverN_lenr _ s
@[simp] theorem flush_ext (s : State) : (flush s).ext = s.ext := deliverN_ext _ s
@[simp] theorem flush_distr (s : State) : (flush s).distr = s.distr := deliverN_distr _ s
@[simp] theorem flush_win (s : State) : (flush s).win = s.win := deliverN_win _ s
@[simp] theorem flush_wr (s : State) : (flush s).wr = s.wr := deliverN_wr _ s
@[simp] theorem flush_whave (s : State) : (flush s).whave = s.whave := deliverN_whave _ s
@[simp] theorem flush_memIn (s : State) : (flush s).memIn = s.memIn := deliverN_memIn _ s
@[simp] theorem flush_memDict (s : State) : (flush s).memDict = s.memDict := deliverN_memDict _ s
@[simp] theorem flush_entryIn (s : State) : (flush s).entryIn = s.entryIn := deliverN_entryIn _ s
@[simp] theorem flush_entryOut (s : State) : (flush s).entryOut = s.entryOut := deliverN_entryOut _ s
@[simp] theorem flush_host (s : State) : (flush s).host = s.host := deliverN_host _ s
@[simp] theorem flush_loop (s : State) : (flush s).loop = s.loop := deliverN_loop _ s
@[simp] theorem flush_hostData (s : State) : (flush s).hostData = s.hostData := deliverN_hostData _ s
@[simp] theorem flush_freeCount (s : State) : (flush s).freeCount = s.freeCount := deliverN_freeCount _ s

/-! ### `finish`: the closing flush, the status, the end of `BUSY` -/

@[simp] theorem finish_cmd (r : Stop) (s : State) : (finish r s).cmd = s.cmd := flush_cmd s
@[simp] theorem finish_arg (r : Stop) (s : State) : (finish r s).arg = s.arg := flush_arg s
@[simp] theorem finish_busy (r : Stop) (s : State) : (finish r s).busy = false := rfl
@[simp] theorem finish_code (r : Stop) (s : State) : (finish r s).code = statusCode (stepStatus r (flush s)) := rfl
@[simp] theorem finish_msg (r : Stop) (s : State) : (finish r s).msg = s.msg := flush_msg s
@[simp] theorem finish_nextIn (r : Stop) (s : State) : (finish r s).nextIn = s.nextIn := flush_nextIn s
@[simp] theorem finish_inBound (r : Stop) (s : State) : (finish r s).inBound = s.inBound := flush_inBound s
@[simp] theorem finish_availIn (r : Stop) (s : State) : (finish r s).availIn = s.availIn := flush_availIn s
@[simp] theorem finish_nextOut (r : Stop) (s : State) : (finish r s).nextOut = (flush s).nextOut := rfl
@[simp] theorem finish_outBound (r : Stop) (s : State) : (finish r s).outBound = s.outBound := flush_outBound s
@[simp] theorem finish_availOut (r : Stop) (s : State) : (finish r s).availOut = (flush s).availOut := rfl
@[simp] theorem finish_totalIn (r : Stop) (s : State) : (finish r s).totalIn = s.totalIn := flush_totalIn s
@[simp] theorem finish_totalOut (r : Stop) (s : State) : (finish r s).totalOut = (flush s).totalOut := rfl
@[simp] theorem finish_adler (r : Stop) (s : State) : (finish r s).adler = (flush s).adler := rfl
@[simp] theorem finish_dictPtr (r : Stop) (s : State) : (finish r s).dictPtr = s.dictPtr := flush_dictPtr s
@[simp] theorem finish_dictLen (r : Stop) (s : State) : (finish r s).dictLen = s.dictLen := flush_dictLen s
@[simp] theorem finish_own (r : Stop) (s : State) : (finish r s).own = s.own := flush_own s
@[simp] theorem finish_mode (r : Stop) (s : State) : (finish r s).mode = s.mode := flush_mode s
@[simp] theorem finish_nowrap (r : Stop) (s : State) : (finish r s).nowrap = s.nowrap := flush_nowrap s
@[simp] theorem finish_wbitsCfg (r : Stop) (s : State) : (finish r s).wbitsCfg = s.wbitsCfg := flush_wbitsCfg s
@[simp] theorem finish_wbits (r : Stop) (s : State) : (finish r s).wbits = s.wbits := flush_wbits s
@[simp] theorem finish_methodr (r : Stop) (s : State) : (finish r s).methodr = s.methodr := flush_methodr s
@[simp] theorem finish_needw (r : Stop) (s : State) : (finish r s).needw = s.needw := flush_needw s
@[simp] theorem finish_wasw (r : Stop) (s : State) : (finish r s).wasw = s.wasw := flush_wasw s
@[simp] theorem finish_marker (r : Stop) (s : State) : (finish r s).marker = s.marker := flush_marker s
@[simp] theorem finish_flushr (r : Stop) (s : State) : (finish r s).flushr = s.flushr := flush_flushr s
@[simp] theorem finish_bitb (r : Stop) (s : State) : (finish r s).bitb = s.bitb := flush_bitb s
@[simp] theorem finish_bitk (r : Stop) (s : State) : (finish r s).bitk = s.bitk := flush_bitk s
@[simp] theorem finish_bmode (r : Stop) (s : State) : (finish r s).bmode = s.bmode := flush_bmode s
@[simp] theorem finish_last (r : Stop) (s : State) : (finish r s).last = s.last := flush_last s
@[simp] theorem finish_left (r : Stop) (s : State) : (finish r s).left = s.left := flush_left s
@[simp] theorem finish_nlen (r : Stop) (s : State) : (finish r s).nlen = s.nlen := flush_nlen s
@[simp] theorem finish_ndist (r : Stop) (s : State) : (finish r s).ndist = s.ndist := flush_ndist s
@[simp] theorem finish_nclen (r : Stop) (s : State) : (finish r s).nclen = s.nclen := flush_nclen s
@[simp] theorem finish_index (r : Stop) (s : State) : (finish r s).index = s.index := flush_index s
@[simp] theorem finish_cllens (r : Stop) (s : State) : (finish r s).cllens = s.cllens := flush_cllens s
@[simp] theorem finish_lens (r : Stop) (s : State) : (finish r s).lens = s.lens := flush_lens s
@[simp] theorem finish_lt (r : Stop) (s : State) : (finish r s).lt = s.lt := flush_lt s
@[simp] theorem finish_dt (r : Stop) (s : State) : (finish r s).dt = s.dt := flush_dt s
@[simp] theorem finish_ct (r : Stop) (s : State) : (finish r s).ct = s.ct := flush_ct s
@[simp] theorem finish_lbits (r : Stop) (s : State) : (finish r s).lbits = s.lbits := flush_lbits s
@[simp] theorem finish_dbits (r : Stop) (s : State) : (finish r s).dbits = s.dbits := flush_dbits s
@[simp] theorem finish_cmode (r : Stop) (s : State) : (finish r s).cmode = s.cmode := flush_cmode s
@[simp] theorem finish_tptr (r : Stop) (s : State) : (finish r s).tptr = s.tptr := flush_tptr s
@[simp] theorem finish_tneed (r : Stop) (s : State) : (finish r s).tneed = s.tneed := flush_tneed s
@[simp] theorem finish_litv (r : Stop) (s : State) : (finish r s).litv = s.litv := flush_litv s
@[simp] theorem finish_lenr (r : Stop) (s : State) : (finish r s).lenr = s.lenr := flush_lenr s
@[simp] theorem finish_ext (r : Stop) (s : State) : (finish r s).ext = s.ext := flush_ext s
@[simp] theorem finish_distr (r : Stop) (s : State) : (finish r s).distr = s.distr := flush_distr s
@[simp] theorem finish_win (r : Stop) (s : State) : (finish r s).win = s.win := flush_win s
@[simp] theorem finish_wr (r : Stop) (s : State) : (finish r s).wr = s.wr := flush_wr s
@[simp] theorem finish_rd (r : Stop) (s : State) : (finish r s).rd = (flush s).rd := rfl
@[simp] theorem finish_pend (r : Stop) (s : State) : (finish r s).pend = (flush s).pend := rfl
@[simp] theorem finish_whave (r : Stop) (s : State) : (finish r s).whave = s.whave := flush_whave s
@[simp] theorem finish_memIn (r : Stop) (s : State) : (finish r s).memIn = s.memIn := flush_memIn s
@[simp] theorem finish_memOut (r : Stop) (s : State) : (finish r s).memOut = (flush s).memOut := rfl
@[simp] theorem finish_memDict (r : Stop) (s : State) : (finish r s).memDict = s.memDict := flush_memDict s
@[simp] theorem finish_entryIn (r : Stop) (s : State) : (finish r s).entryIn = s.entryIn := flush_entryIn s
@[simp] theorem finish_entryOut (r : Stop) (s : State) : (finish r s).entryOut = s.entryOut := flush_entryOut s
@[simp] theorem finish_host (r : Stop) (s : State) : (finish r s).host = s.host := flush_host s
@[simp] theorem finish_loop (r : Stop) (s : State) : (finish r s).loop = s.loop := flush_loop s
@[simp] theorem finish_hostData (r : Stop) (s : State) : (finish r s).hostData = s.hostData := flush_hostData s
@[simp] theorem finish_freeCount (r : Stop) (s : State) : (finish r s).freeCount = s.freeCount := flush_freeCount s

end Sys2Proof.Machine
end

