-- ==== Sys2Proof/Laws/Ops.lean ====
section
/-! SUPPORT. What each shared operation can do, said once: the bit reader, the window, the checksum. -/

namespace Sys2Proof.Machine

/-! ### The bit reader -/

/-- `t` is `s` with bytes pulled: only the bit reader's registers and the input cursor may differ (R140). -/
def Pulled (s t : State) : Prop :=
  t = { s with nextIn := t.nextIn, availIn := t.availIn, totalIn := t.totalIn, bitb := t.bitb, bitk := t.bitk }

theorem Pulled.refl (s : State) : Pulled s s := rfl

theorem Pulled.trans {s t u : State} (h : Pulled s t) (g : Pulled t u) : Pulled s u := by
  unfold Pulled at *
  rw [g, h]

/-- Everything a pull can do (R141). -/
theorem pull_cases (s : State) :
    (s.availIn = 0 ∧ pull s = .stop .needIn s) ∨
    (s.availIn ≠ 0 ∧ s.memIn.read s.nextIn.toNat = none ∧ pull s = .fault (.inputUnreadable s.nextIn.toNat)) ∨
    (s.availIn ≠ 0 ∧ ∃ b, s.memIn.read s.nextIn.toNat = some b ∧ pull s = .ok () (advanceIn (accept b s))) := by
  unfold pull
  split
  · exact .inl ⟨‹_›, rfl⟩
  · split
    · exact .inr (.inl ⟨‹_›, ‹_›, rfl⟩)
    · exact .inr (.inr ⟨‹_›, _, ‹_›, rfl⟩)

theorem pull_ok {s t : State} {u : Unit} (h : pull s = .ok u t) :
    s.availIn ≠ 0 ∧ ∃ b, s.memIn.read s.nextIn.toNat = some b ∧ t = advanceIn (accept b s) := by
  rcases pull_cases s with ⟨_, e⟩ | ⟨_, _, e⟩ | ⟨ha, b, hb, e⟩ <;> rw [e] at h
  · cases h
  · cases h
  · cases h
    exact ⟨ha, b, hb, rfl⟩

/-- A pull stops only for lack of input, and then changes nothing (R141). -/
theorem pull_stop {s t : State} {r : Stop} (h : pull s = .stop r t) : s.availIn = 0 ∧ r = .needIn ∧ t = s := by
  rcases pull_cases s with ⟨ha, e⟩ | ⟨_, _, e⟩ | ⟨ha, b, hb, e⟩ <;> rw [e] at h
  · cases h
    exact ⟨ha, rfl, rfl⟩
  · cases h
  · cases h

theorem pull_pulled {s t : State} {u : Unit} (h : pull s = .ok u t) : Pulled s t := by
  obtain ⟨_, b, _, rfl⟩ := pull_ok h
  rfl

/-- Pulls change only what a pull changes, whether they succeed or stop (R9). -/
theorem pulls_ok_pulled {k : Nat} {s t : State} {u : Unit} (h : pulls k s = .ok u t) : Pulled s t := by
  induction k generalizing s with
  | zero => cases h; exact .refl _
  | succ k ih =>
    simp only [pulls, Got.bind] at h
    split at h
    · exact (pull_pulled ‹_›).trans (ih h)
    · cases h
    · cases h

theorem pulls_stop_pulled {k : Nat} {s t : State} {r : Stop} (h : pulls k s = .stop r t) : r = .needIn ∧ Pulled s t := by
  induction k generalizing s with
  | zero => cases h
  | succ k ih =>
    simp only [pulls, Got.bind] at h
    split at h
    · rename_i heq
      exact ⟨(ih h).1, (pull_pulled heq).trans (ih h).2⟩
    · rename_i heq
      cases h
      obtain ⟨_, rfl, rfl⟩ := pull_stop heq
      exact ⟨rfl, .refl _⟩
    · cases h

theorem pull_bitk (b : Byte) (s : State) (h : s.bitk.toNat + 8 < 64) :
    (advanceIn (accept b s)).bitk.toNat = s.bitk.toNat + 8 := by
  have h8 : (8 : BitVec 6).toNat = 8 := rfl
  rw [advanceIn_bitk, accept_bitk, BitVec.toNat_add, h8]
  omega

/-- The bits held grow by eight a pull. -/
theorem pulls_bitk {k : Nat} {s t : State} {u : Unit} (h : pulls k s = .ok u t) (hb : s.bitk.toNat + 8 * k < 64) :
    t.bitk.toNat = s.bitk.toNat + 8 * k := by
  induction k generalizing s with
  | zero => cases h; rfl
  | succ k ih =>
    simp only [pulls, Got.bind] at h
    split at h
    · rename_i heq
      obtain ⟨_, b, _, rfl⟩ := pull_ok heq
      have hk : (advanceIn (accept b s)).bitk.toNat = s.bitk.toNat + 8 := pull_bitk b s (by omega)
      rw [ih h (by omega), hk]
      omega
    · cases h
    · cases h

/-- `need_bits(n)` answers with at least `n` bits held, and with the fewest pulls (R142). -/
theorem needBits_ok {n : Nat} {s t : State} {u : Unit} (hn : n ≤ 32) (hk : s.bitk.toNat ≤ 32) (h : needBits n s = .ok u t) :
    Pulled s t ∧ n ≤ t.bitk.toNat ∧ t.bitk.toNat = s.bitk.toNat + 8 * ((n - s.bitk.toNat + 7) / 8) := by
  have hb := pulls_bitk h (by omega)
  exact ⟨pulls_ok_pulled h, by omega, hb⟩

theorem needBits_enough {n : Nat} {s : State} (h : n ≤ s.bitk.toNat) : needBits n s = .ok () s := by
  have : (n - s.bitk.toNat + 7) / 8 = 0 := by omega
  simp [needBits, this, pulls]

theorem lookupLoop_pulled {k base width : Nat} {t : List Entry} {s u : State} {e : Entry}
    (h : lookupLoop k t base width s = .ok e u) : Pulled s u := by
  induction k generalizing s with
  | zero => cases h; exact .refl _
  | succ k ih =>
    simp only [lookupLoop] at h
    split at h
    · cases h
      exact .refl _
    · simp only [Got.bind] at h
      split at h
      · exact (pull_pulled ‹_›).trans (ih h)
      · cases h
      · cases h

/-- `lookup` answers an entry of the table whose bits are held, and only pulls (R176). -/
theorem lookup_ok {t : List Entry} {base width : Nat} {s u : State} {e : Entry} (hk : s.bitk.toNat ≤ 32)
    (h : lookup t base width s = .ok e u) :
    Pulled s u ∧ e.bits.toNat ≤ u.bitk.toNat ∧ e = t.getD (base + peek width u) Entry.invalid := by
  refine ⟨lookupLoop_pulled h, ?_⟩
  have hlt : ∀ e : Entry, e.bits.toNat ≤ 15 := fun e => by have := e.bits.isLt; omega
  simp only [lookup, lookupLoop, Got.bind] at h
  split at h
  · cases h
    exact ⟨‹_›, rfl⟩
  · split at h
    · rename_i hne _ _ _ heq
      obtain ⟨_, b, _, rfl⟩ := pull_ok heq
      split at h
      · cases h
        exact ⟨‹_›, rfl⟩
      · split at h
        · rename_i heq
          obtain ⟨_, c, _, rfl⟩ := pull_ok heq
          cases h
          refine ⟨(hlt _).trans ?_, rfl⟩
          have := hlt (t.getD (base + peek width s) Entry.invalid)
          have h1 := pull_bitk b s (by omega)
          have := hlt (t.getD (base + peek width (advanceIn (accept b s))) Entry.invalid)
          have h2 := pull_bitk c (advanceIn (accept b s)) (by omega)
          omega
        · cases h
        · cases h
    · cases h
    · cases h

/-! ### The window -/

/-- After `k` deliveries of bytes that are pending and fit, the two counts are down by `k` (R255). -/
theorem deliverN_counts {k : Nat} {s : State} (hp : k ≤ s.pend.toNat) (ha : k ≤ s.availOut.toNat) :
    (deliverN k s).pend.toNat = s.pend.toNat - k ∧ (deliverN k s).availOut.toNat = s.availOut.toNat - k := by
  induction k generalizing s with
  | zero => exact ⟨rfl, rfl⟩
  | succ k ih =>
    have h1 : (deliver s).pend.toNat = s.pend.toNat - 1 := by
      have := s.pend.isLt
      have h1 : (1 : BitVec 16).toNat = 1 := rfl
      rw [deliver_pend, BitVec.toNat_sub, h1]
      omega
    have h2 : (deliver s).availOut.toNat = s.availOut.toNat - 1 := by
      have := s.availOut.isLt
      have h1 : (1 : BitVec 32).toNat = 1 := rfl
      rw [deliver_availOut, BitVec.toNat_sub, h1]
      omega
    have := ih (s := deliver s) (by omega) (by omega)
    simp only [deliverN]
    omega

theorem flush_counts (s : State) :
    (flush s).pend.toNat = s.pend.toNat - min s.pend.toNat s.availOut.toNat ∧
      (flush s).availOut.toNat = s.availOut.toNat - min s.pend.toNat s.availOut.toNat :=
  deliverN_counts (Nat.min_le_left _ _) (Nat.min_le_right _ _)

/-- After `flush()` nothing is pending or the output is full (R258). -/
theorem flush_drained (s : State) : (flush s).pend.toNat = 0 ∨ (flush s).availOut.toNat = 0 := by
  have := flush_counts s
  omega

/-- `t` is `s` with bytes delivered: only what `flush()` writes may differ (R255). -/
def Delivered (s t : State) : Prop :=
  t = { s with memOut := t.memOut, adler := t.adler, rd := t.rd, nextOut := t.nextOut, availOut := t.availOut,
               totalOut := t.totalOut, pend := t.pend }

theorem Delivered.trans {s t u : State} (h : Delivered s t) (g : Delivered t u) : Delivered s u := by
  unfold Delivered at *
  rw [g, h]

theorem deliverN_delivered (k : Nat) (s : State) : Delivered s (deliverN k s) := by
  induction k generalizing s with
  | zero => rfl
  | succ k ih => exact Delivered.trans (show Delivered s (deliver s) from rfl) (ih (deliver s))

theorem flush_delivered (s : State) : Delivered s (flush s) := deliverN_delivered _ s

theorem wsize_pos (s : State) : 0 < wsize s := Nat.two_pow_pos _

theorem wsize_le (s : State) : wsize s ≤ 32768 := by
  have := s.wbits.isLt
  calc wsize s ≤ 2 ^ 15 := Nat.pow_le_pow_right (by omega) (by omega)
    _ = 32768 := by norm_num

/-- `room()` answers with a free place (R253). -/
theorem room_ok {s t : State} {u : Unit} (h : room s = .ok u t) : Delivered s t ∧ t.pend.toNat ≠ wsize t := by
  unfold room at h
  split at h
  · dsimp only at h
    split at h
    · cases h
    · cases h
      exact ⟨flush_delivered s, ‹_›⟩
  · cases h
    exact ⟨rfl, ‹_›⟩

theorem room_stop {s t : State} {r : Stop} (h : room s = .stop r t) : r = .needOut ∧ t = flush s := by
  unfold room at h
  split at h
  · dsimp only at h
    split at h
    · cases h
      exact ⟨rfl, rfl⟩
    · cases h
  · cases h

/-! ### The checksum -/

/-- Both halves stay below 65521 (R32, R276). -/
theorem adlerStep_halves (a : Word) (b : Byte) :
    (adlerStep a b).toNat % 2 ^ 16 < 65521 ∧ (adlerStep a b).toNat / 2 ^ 16 < 65521 := by
  simp only [adlerStep, BitVec.toNat_ofNat]
  have h1 : (a.toNat % 2 ^ 16 + b.toNat) % 65521 < 65521 := Nat.mod_lt _ (by decide)
  have h2 : (a.toNat / 2 ^ 16 + (a.toNat % 2 ^ 16 + b.toNat) % 65521) % 65521 < 65521 := Nat.mod_lt _ (by decide)
  generalize (a.toNat % 2 ^ 16 + b.toNat) % 65521 = x at *
  generalize (a.toNat / 2 ^ 16 + x) % 65521 = y at *
  omega

theorem adlerOf_append (a : Word) (xs ys : List Byte) : adlerOf a (xs ++ ys) = adlerOf (adlerOf a xs) ys := by
  induction xs generalizing a with
  | nil => rfl
  | cons x xs ih => exact ih _

/-! ### The host's loop -/

/-- Everything a turn of the host's loop can do: lay down moves and go on, or nothing once it is over (R376). -/
theorem loopTurn_cases (l : HostLoop) (s : State) :
    (l.stage = .over ∧ loopTurn l s = s) ∨ ∃ ms k, loopTurn l s = say ms k s := by
  unfold loopTurn
  dsimp only
  split
  · exact .inr ⟨_, _, rfl⟩
  · right
    unfold loopBind
    repeat' split
    all_goals exact ⟨_, _, rfl⟩
  · right
    unfold loopStatus loopSupply loopDict loopError
    repeat' split
    all_goals exact ⟨_, _, rfl⟩
  · right
    split <;> exact ⟨_, _, rfl⟩
  · right
    unfold loopSync
    repeat' split
    all_goals exact ⟨_, _, rfl⟩
  · exact .inl ⟨‹_›, rfl⟩

/-! ### Ends of a step -/

@[simp] theorem settle_ok {α : Type} (a : α) (s : State) (k : α → State → Host.Outcome State Fault Refusal) :
    settle (.ok a s) k = k a s := rfl

@[simp] theorem settle_stop {α : Type} (r : Stop) (s : State) (k : α → State → Host.Outcome State Fault Refusal) :
    settle (.stop r s) k = .next (finish r s) := rfl

@[simp] theorem settle_fault {α : Type} (f : Fault) (k : α → State → Host.Outcome State Fault Refusal) :
    settle (.fault f) k = .fault f := rfl

/-- A next state comes from an answer or from a stop. -/
theorem settle_next {α : Type} {g : Got α} {k : α → State → Host.Outcome State Fault Refusal} {t : State}
    (h : settle g k = .next t) : (∃ a u, g = .ok a u ∧ k a u = .next t) ∨ (∃ r u, g = .stop r u ∧ t = finish r u) := by
  cases g with
  | ok a u => exact .inl ⟨a, u, rfl, h⟩
  | stop r u =>
    simp only [settle_stop, Host.Outcome.next.injEq] at h
    exact .inr ⟨r, u, rfl, h.symm⟩
  | fault f => simp at h

end Sys2Proof.Machine
end

