-- ==== Sys2Proof/Laws/PerInstr.lean ====
section
/-! SUPPORT. Facts about every instruction, one lemma a constructor: decoding the encoding of a well-formed instruction gives it
back. -/

namespace Sys2Proof.Laws.RoundTrip

/-- The decoder reads what the encoder wrote. -/
def Statement (i : Instr) : Prop :=
  i.wf = true → decode (encode i).slot (encode i).entry (encode i).bits = i

theorem toNat_bits {v : Nat} (h : v < 2 ^ 32) : (BitVec.ofNat 32 v).toNat = v := by
  rw [BitVec.toNat_ofNat, Nat.mod_eq_of_lt h]

theorem fieldAt_zero {v n : Nat} (h : v < 2 ^ n) : fieldAt v 0 n = v := by
  simp [fieldAt, Nat.mod_eq_of_lt h]

/-- A field of `k` bits that is the whole element reads back. -/
theorem field_back {k : Nat} (x : BitVec k) (hk : k ≤ 32) :
    BitVec.ofNat k (fieldAt (BitVec.ofNat 32 x.toNat).toNat 0 k) = x := by
  have h32 : x.toNat < 2 ^ 32 := x.isLt.trans_le (Nat.pow_le_pow_right (by omega) hk)
  rw [toNat_bits h32, fieldAt_zero x.isLt, BitVec.ofNat_toNat, BitVec.setWidth_eq]

/-- A field narrower than its operand's type reads back when the operand fits the field. -/
theorem narrow_back {k n : Nat} (x : BitVec k) (hk : k ≤ 32) (h : x.toNat < 2 ^ n) :
    BitVec.ofNat k (fieldAt (BitVec.ofNat 32 x.toNat).toNat 0 n) = x := by
  have h32 : x.toNat < 2 ^ 32 := x.isLt.trans_le (Nat.pow_le_pow_right (by omega) hk)
  rw [toNat_bits h32, fieldAt_zero h, BitVec.ofNat_toNat, BitVec.setWidth_eq]

/-- The value of an entry reads back. -/
theorem val_back (v : BitVec 16) : BitVec.ofNat 16 v.toNat = v := by
  rw [BitVec.ofNat_toNat, BitVec.setWidth_eq]

/-- The extra bits above a code of `n` bits read back. -/
theorem extra_back {k : Nat} (n : BitVec 4) (x : BitVec k) (h : n.toNat ≤ 7) (hk : k ≤ 7) :
    BitVec.ofNat k (fieldAt (BitVec.ofNat 32 (x.toNat * 2 ^ n.toNat)).toNat n.toNat k) = x := by
  have hx : x.toNat < 2 ^ 7 := x.isLt.trans_le (Nat.pow_le_pow_right (by omega) hk)
  have hn : 2 ^ n.toNat ≤ 2 ^ 7 := Nat.pow_le_pow_right (by omega) h
  have h32 : x.toNat * 2 ^ n.toNat < 2 ^ 32 :=
    calc x.toNat * 2 ^ n.toNat ≤ 2 ^ 7 * 2 ^ 7 := Nat.mul_le_mul hx.le hn
      _ < 2 ^ 32 := by norm_num
  rw [toNat_bits h32, fieldAt, Nat.mul_div_cancel _ (Nat.two_pow_pos _), Nat.mod_eq_of_lt x.isLt, BitVec.ofNat_toNat,
    BitVec.setWidth_eq]

theorem clCode_bound {n : BitVec 4} (h : wfClCode n = true) : 1 ≤ n.toNat ∧ n.toNat ≤ 7 := by
  simpa [wfClCode] using h


theorem init : Statement (.init) := by
  unfold Statement; decide

theorem reset : Statement (.reset) := by
  unfold Statement; decide

theorem stepCmd : Statement (.stepCmd) := by
  unfold Statement; decide

theorem setDict : Statement (.setDict) := by
  unfold Statement; decide

theorem sync : Statement (.sync) := by
  unfold Statement; decide

theorem endCmd : Statement (.endCmd) := by
  unfold Statement; decide

theorem cmdIllegal (c : Byte) : Statement (.cmdIllegal c) := by
  unfold Statement; revert c; decide

theorem cmf (c : Byte) : Statement (.cmf c) := by
  intro _
  exact congrArg Instr.cmf (field_back c (by omega))

theorem flg (f : Byte) : Statement (.flg f) := by
  intro _
  exact congrArg Instr.flg (field_back f (by omega))

theorem dictid (k : Fin 4) (b : Byte) : Statement (.dictid k b) := by
  intro _
  exact congrArg (Instr.dictid k) (field_back b (by omega))

theorem adler32 (k : Fin 4) (b : Byte) : Statement (.adler32 k b) := by
  intro _
  exact congrArg (Instr.adler32 k) (field_back b (by omega))

theorem blkStored (final : Bool) : Statement (.blkStored final) := by
  unfold Statement; revert final; decide

theorem blkFixed (final : Bool) : Statement (.blkFixed final) := by
  unfold Statement; revert final; decide

theorem blkDynamic (final : Bool) : Statement (.blkDynamic final) := by
  unfold Statement; revert final; decide

theorem blkReserved (final : Bool) : Statement (.blkReserved final) := by
  unfold Statement; revert final; decide

theorem align (n : BitVec 3) (pad : BitVec 7) : Statement (.align n pad) := by
  intro h
  exact congrArg (Instr.align n) (narrow_back pad (by omega) (by simpa [Instr.wf] using h))

theorem stlen (len : BitVec 16) (nlen : BitVec 16) : Statement (.stlen len nlen) := by
  intro _
  have h1 := len.isLt
  have h2 := nlen.isLt
  have e : (BitVec.ofNat 32 (len.toNat + 2 ^ 16 * nlen.toNat)).toNat = len.toNat + 2 ^ 16 * nlen.toNat := toNat_bits (by omega)
  simp only [encode, decode, codedField, e, fieldAt]
  congr 1 <;> apply BitVec.eq_of_toNat_eq <;> simp only [BitVec.toNat_ofNat] <;> omega

theorem raw (b : Byte) : Statement (.raw b) := by
  intro _
  exact congrArg Instr.raw (field_back b (by omega))

theorem counts (hlit : BitVec 5) (hdist : BitVec 5) (hclen : BitVec 4) : Statement (.counts hlit hdist hclen) := by
  intro _
  have h1 := hlit.isLt
  have h2 := hdist.isLt
  have h3 := hclen.isLt
  have e : (BitVec.ofNat 32 (hlit.toNat + 2 ^ 5 * hdist.toNat + 2 ^ 10 * hclen.toNat)).toNat =
      hlit.toNat + 2 ^ 5 * hdist.toNat + 2 ^ 10 * hclen.toNat := toNat_bits (by omega)
  simp only [encode, decode, codedField, e, fieldAt]
  congr 1 <;> apply BitVec.eq_of_toNat_eq <;> simp only [BitVec.toNat_ofNat] <;> omega

theorem cll (l : BitVec 3) : Statement (.cll l) := by
  intro _
  exact congrArg Instr.cll (field_back l (by omega))

theorem clLen0 (n : BitVec 4) : Statement (.clLen0 n) := by
  unfold Statement; revert n; decide

theorem clLen1 (n : BitVec 4) : Statement (.clLen1 n) := by
  unfold Statement; revert n; decide

theorem clLen2 (n : BitVec 4) : Statement (.clLen2 n) := by
  unfold Statement; revert n; decide

theorem clLen3 (n : BitVec 4) : Statement (.clLen3 n) := by
  unfold Statement; revert n; decide

theorem clLen4 (n : BitVec 4) : Statement (.clLen4 n) := by
  unfold Statement; revert n; decide

theorem clLen5 (n : BitVec 4) : Statement (.clLen5 n) := by
  unfold Statement; revert n; decide

theorem clLen6 (n : BitVec 4) : Statement (.clLen6 n) := by
  unfold Statement; revert n; decide

theorem clLen7 (n : BitVec 4) : Statement (.clLen7 n) := by
  unfold Statement; revert n; decide

theorem clLen8 (n : BitVec 4) : Statement (.clLen8 n) := by
  unfold Statement; revert n; decide

theorem clLen9 (n : BitVec 4) : Statement (.clLen9 n) := by
  unfold Statement; revert n; decide

theorem clLen10 (n : BitVec 4) : Statement (.clLen10 n) := by
  unfold Statement; revert n; decide

theorem clLen11 (n : BitVec 4) : Statement (.clLen11 n) := by
  unfold Statement; revert n; decide

theorem clLen12 (n : BitVec 4) : Statement (.clLen12 n) := by
  unfold Statement; revert n; decide

theorem clLen13 (n : BitVec 4) : Statement (.clLen13 n) := by
  unfold Statement; revert n; decide

theorem clLen14 (n : BitVec 4) : Statement (.clLen14 n) := by
  unfold Statement; revert n; decide

theorem clLen15 (n : BitVec 4) : Statement (.clLen15 n) := by
  unfold Statement; revert n; decide

theorem clRep (n : BitVec 4) (x : BitVec 2) : Statement (.clRep n x) := by
  intro h
  obtain ⟨h1, h7⟩ := clCode_bound h
  have e : decode (encode (.clRep n x)).slot (encode (.clRep n x)).entry (encode (.clRep n x)).bits = .clRep n
      (BitVec.ofNat 2 (fieldAt (BitVec.ofNat 32 (x.toNat * 2 ^ n.toNat)).toNat n.toNat 2)) := by
    show decodeCl ⟨0x00, n, 16⟩ (BitVec.ofNat 32 (x.toNat * 2 ^ n.toNat)).toNat = _
    simp [decodeCl, entryClass, h1, clInstr]
  rw [e, extra_back n x h7 (by omega)]

theorem clZrep3 (n : BitVec 4) (x : BitVec 3) : Statement (.clZrep3 n x) := by
  intro h
  obtain ⟨h1, h7⟩ := clCode_bound h
  have e : decode (encode (.clZrep3 n x)).slot (encode (.clZrep3 n x)).entry (encode (.clZrep3 n x)).bits = .clZrep3 n
      (BitVec.ofNat 3 (fieldAt (BitVec.ofNat 32 (x.toNat * 2 ^ n.toNat)).toNat n.toNat 3)) := by
    show decodeCl ⟨0x00, n, 17⟩ (BitVec.ofNat 32 (x.toNat * 2 ^ n.toNat)).toNat = _
    simp [decodeCl, entryClass, h1, clInstr]
  rw [e, extra_back n x h7 (by omega)]

theorem clZrep11 (n : BitVec 4) (x : BitVec 7) : Statement (.clZrep11 n x) := by
  intro h
  obtain ⟨h1, h7⟩ := clCode_bound h
  have e : decode (encode (.clZrep11 n x)).slot (encode (.clZrep11 n x)).entry (encode (.clZrep11 n x)).bits = .clZrep11 n
      (BitVec.ofNat 7 (fieldAt (BitVec.ofNat 32 (x.toNat * 2 ^ n.toNat)).toNat n.toNat 7)) := by
    show decodeCl ⟨0x00, n, 18⟩ (BitVec.ofNat 32 (x.toNat * 2 ^ n.toNat)).toNat = _
    simp [decodeCl, entryClass, h1, clInstr]
  rw [e, extra_back n x h7 (by omega)]

theorem clInvalid (n : BitVec 4) : Statement (.clInvalid n) := by
  unfold Statement; revert n; decide

theorem lit (n : BitVec 4) (b : Byte) : Statement (.lit n b) := by
  intro h
  simp only [Instr.wf, wfCode, decide_eq_true_eq] at h
  have hb := b.isLt
  have e : b.toNat % 65536 = b.toNat := Nat.mod_eq_of_lt (by omega)
  show decodeLl ⟨0x00, n, BitVec.ofNat 16 b.toNat⟩ (BitVec.ofNat 32 0).toNat = _
  simp [decodeLl, entryClass, h, e, show b.toNat < 256 from hb]

theorem eob (n : BitVec 4) : Statement (.eob n) := by
  unfold Statement; revert n; decide

theorem len257 (n : BitVec 4) : Statement (.len257 n) := by
  unfold Statement; revert n; decide

theorem len258 (n : BitVec 4) : Statement (.len258 n) := by
  unfold Statement; revert n; decide

theorem len259 (n : BitVec 4) : Statement (.len259 n) := by
  unfold Statement; revert n; decide

theorem len260 (n : BitVec 4) : Statement (.len260 n) := by
  unfold Statement; revert n; decide

theorem len261 (n : BitVec 4) : Statement (.len261 n) := by
  unfold Statement; revert n; decide

theorem len262 (n : BitVec 4) : Statement (.len262 n) := by
  unfold Statement; revert n; decide

theorem len263 (n : BitVec 4) : Statement (.len263 n) := by
  unfold Statement; revert n; decide

theorem len264 (n : BitVec 4) : Statement (.len264 n) := by
  unfold Statement; revert n; decide

theorem len265 (n : BitVec 4) : Statement (.len265 n) := by
  unfold Statement; revert n; decide

theorem len266 (n : BitVec 4) : Statement (.len266 n) := by
  unfold Statement; revert n; decide

theorem len267 (n : BitVec 4) : Statement (.len267 n) := by
  unfold Statement; revert n; decide

theorem len268 (n : BitVec 4) : Statement (.len268 n) := by
  unfold Statement; revert n; decide

theorem len269 (n : BitVec 4) : Statement (.len269 n) := by
  unfold Statement; revert n; decide

theorem len270 (n : BitVec 4) : Statement (.len270 n) := by
  unfold Statement; revert n; decide

theorem len271 (n : BitVec 4) : Statement (.len271 n) := by
  unfold Statement; revert n; decide

theorem len272 (n : BitVec 4) : Statement (.len272 n) := by
  unfold Statement; revert n; decide

theorem len273 (n : BitVec 4) : Statement (.len273 n) := by
  unfold Statement; revert n; decide

theorem len274 (n : BitVec 4) : Statement (.len274 n) := by
  unfold Statement; revert n; decide

theorem len275 (n : BitVec 4) : Statement (.len275 n) := by
  unfold Statement; revert n; decide

theorem len276 (n : BitVec 4) : Statement (.len276 n) := by
  unfold Statement; revert n; decide

theorem len277 (n : BitVec 4) : Statement (.len277 n) := by
  unfold Statement; revert n; decide

theorem len278 (n : BitVec 4) : Statement (.len278 n) := by
  unfold Statement; revert n; decide

theorem len279 (n : BitVec 4) : Statement (.len279 n) := by
  unfold Statement; revert n; decide

theorem len280 (n : BitVec 4) : Statement (.len280 n) := by
  unfold Statement; revert n; decide

theorem len281 (n : BitVec 4) : Statement (.len281 n) := by
  unfold Statement; revert n; decide

theorem len282 (n : BitVec 4) : Statement (.len282 n) := by
  unfold Statement; revert n; decide

theorem len283 (n : BitVec 4) : Statement (.len283 n) := by
  unfold Statement; revert n; decide

theorem len284 (n : BitVec 4) : Statement (.len284 n) := by
  unfold Statement; revert n; decide

theorem len285 (n : BitVec 4) : Statement (.len285 n) := by
  unfold Statement; revert n; decide

theorem llReserved286 : Statement (.llReserved286) := by
  unfold Statement; decide

theorem llReserved287 : Statement (.llReserved287) := by
  unfold Statement; decide

theorem llInvalid (n : BitVec 4) : Statement (.llInvalid n) := by
  unfold Statement; revert n; decide

theorem dist0 (n : BitVec 4) : Statement (.dist0 n) := by
  unfold Statement; revert n; decide

theorem dist1 (n : BitVec 4) : Statement (.dist1 n) := by
  unfold Statement; revert n; decide

theorem dist2 (n : BitVec 4) : Statement (.dist2 n) := by
  unfold Statement; revert n; decide

theorem dist3 (n : BitVec 4) : Statement (.dist3 n) := by
  unfold Statement; revert n; decide

theorem dist4 (n : BitVec 4) : Statement (.dist4 n) := by
  unfold Statement; revert n; decide

theorem dist5 (n : BitVec 4) : Statement (.dist5 n) := by
  unfold Statement; revert n; decide

theorem dist6 (n : BitVec 4) : Statement (.dist6 n) := by
  unfold Statement; revert n; decide

theorem dist7 (n : BitVec 4) : Statement (.dist7 n) := by
  unfold Statement; revert n; decide

theorem dist8 (n : BitVec 4) : Statement (.dist8 n) := by
  unfold Statement; revert n; decide

theorem dist9 (n : BitVec 4) : Statement (.dist9 n) := by
  unfold Statement; revert n; decide

theorem dist10 (n : BitVec 4) : Statement (.dist10 n) := by
  unfold Statement; revert n; decide

theorem dist11 (n : BitVec 4) : Statement (.dist11 n) := by
  unfold Statement; revert n; decide

theorem dist12 (n : BitVec 4) : Statement (.dist12 n) := by
  unfold Statement; revert n; decide

theorem dist13 (n : BitVec 4) : Statement (.dist13 n) := by
  unfold Statement; revert n; decide

theorem dist14 (n : BitVec 4) : Statement (.dist14 n) := by
  unfold Statement; revert n; decide

theorem dist15 (n : BitVec 4) : Statement (.dist15 n) := by
  unfold Statement; revert n; decide

theorem dist16 (n : BitVec 4) : Statement (.dist16 n) := by
  unfold Statement; revert n; decide

theorem dist17 (n : BitVec 4) : Statement (.dist17 n) := by
  unfold Statement; revert n; decide

theorem dist18 (n : BitVec 4) : Statement (.dist18 n) := by
  unfold Statement; revert n; decide

theorem dist19 (n : BitVec 4) : Statement (.dist19 n) := by
  unfold Statement; revert n; decide

theorem dist20 (n : BitVec 4) : Statement (.dist20 n) := by
  unfold Statement; revert n; decide

theorem dist21 (n : BitVec 4) : Statement (.dist21 n) := by
  unfold Statement; revert n; decide

theorem dist22 (n : BitVec 4) : Statement (.dist22 n) := by
  unfold Statement; revert n; decide

theorem dist23 (n : BitVec 4) : Statement (.dist23 n) := by
  unfold Statement; revert n; decide

theorem dist24 (n : BitVec 4) : Statement (.dist24 n) := by
  unfold Statement; revert n; decide

theorem dist25 (n : BitVec 4) : Statement (.dist25 n) := by
  unfold Statement; revert n; decide

theorem dist26 (n : BitVec 4) : Statement (.dist26 n) := by
  unfold Statement; revert n; decide

theorem dist27 (n : BitVec 4) : Statement (.dist27 n) := by
  unfold Statement; revert n; decide

theorem dist28 (n : BitVec 4) : Statement (.dist28 n) := by
  unfold Statement; revert n; decide

theorem dist29 (n : BitVec 4) : Statement (.dist29 n) := by
  unfold Statement; revert n; decide

theorem dReserved30 : Statement (.dReserved30) := by
  unfold Statement; decide

theorem dReserved31 : Statement (.dReserved31) := by
  unfold Statement; decide

theorem dInvalid (n : BitVec 4) : Statement (.dInvalid n) := by
  unfold Statement; revert n; decide

theorem lenExtra (w : BitVec 4) (x : BitVec 15) : Statement (.lenExtra w x) := by
  intro h
  simp only [Instr.wf, Bool.and_eq_true, decide_eq_true_eq] at h
  exact congrArg (Instr.lenExtra w) (narrow_back x (by omega) h.2)

theorem distExtra (w : BitVec 4) (x : BitVec 15) : Statement (.distExtra w x) := by
  intro h
  simp only [Instr.wf, Bool.and_eq_true, decide_eq_true_eq] at h
  exact congrArg (Instr.distExtra w) (narrow_back x (by omega) h.2)

theorem tLit (n : BitVec 4) (v : BitVec 16) : Statement (.tLit n v) := by
  intro _
  show Instr.tLit n (BitVec.ofNat 16 v.toNat) = _
  rw [val_back]

theorem tLink (w : BitVec 4) (n : BitVec 4) (v : BitVec 16) : Statement (.tLink w n v) := by
  intro h
  have e : ∀ w : BitVec 4, 1 ≤ w.toNat → entryClass (BitVec.ofNat 8 w.toNat) = .link w := by decide
  simp only [Instr.wf, decide_eq_true_eq] at h
  show decodeLl ⟨BitVec.ofNat 8 w.toNat, n, BitVec.ofNat 16 v.toNat⟩ _ = _
  simp only [decodeLl, decodeEntry, e w h, val_back]

theorem tBase (x : BitVec 4) (n : BitVec 4) (v : BitVec 16) : Statement (.tBase x n v) := by
  intro _
  have e : ∀ x : BitVec 4, entryClass (BitVec.ofNat 8 (0x10 + x.toNat)) = .base x := by decide
  show decodeCl ⟨BitVec.ofNat 8 (0x10 + x.toNat), n, BitVec.ofNat 16 v.toNat⟩ _ = _
  simp only [decodeCl, decodeEntry, e, val_back]

theorem tEob (n : BitVec 4) (v : BitVec 16) : Statement (.tEob n v) := by
  intro _
  have e : entryClass (BitVec.ofNat 8 0x20) = .eob := by decide
  show decodeDist ⟨BitVec.ofNat 8 0x20, n, BitVec.ofNat 16 v.toNat⟩ (BitVec.ofNat 32 0).toNat = _
  simp only [decodeDist, decodeEntry, e, val_back]

theorem tInvalid (op : BitVec 8) (n : BitVec 4) (v : BitVec 16) : Statement (.tInvalid op n v) := by
  intro h
  have e : ∀ op : BitVec 8, 2 ≤ op.toNat / 16 → op.toNat ≠ 0x20 → entryClass op = .invalid := by decide
  simp only [Instr.wf, Bool.and_eq_true, decide_eq_true_eq, bne_iff_ne, ne_eq, Bool.not_eq_true'] at h
  obtain ⟨⟨h1, h2⟩, h3⟩ := h
  have ho : BitVec.ofNat 8 op.toNat = op := by rw [BitVec.ofNat_toNat, BitVec.setWidth_eq]
  have hi : Entry.isInvalid ⟨op, n, v⟩ = false := h3
  show decodeLl ⟨BitVec.ofNat 8 op.toNat, n, BitVec.ofNat 16 v.toNat⟩ _ = _
  rw [ho, val_back]
  simp only [decodeLl, decodeEntry, e op h1 h2, hi, Bool.false_eq_true, if_false]

end Sys2Proof.Laws.RoundTrip
end

