-- ==== Sys2Proof/Laws/Tables.lean ====
section
/-! SUPPORT. The small laws of the terms of Safety.lean about pulls and tables. -/

namespace Sys2Proof.Machine

@[simp] theorem afterPulls_bitk (k : Nat) (s : State) :
    (afterPulls k s).bitk = BitVec.ofNat 6 (s.bitk.toNat + 8 * k) := rfl
@[simp] theorem afterPulls_nextIn (k : Nat) (s : State) : (afterPulls k s).nextIn = s.nextIn + BitVec.ofNat 32 k := rfl
@[simp] theorem afterPulls_availIn (k : Nat) (s : State) : (afterPulls k s).availIn = s.availIn - BitVec.ofNat 32 k := rfl
@[simp] theorem afterPulls_totalIn (k : Nat) (s : State) : (afterPulls k s).totalIn = s.totalIn + BitVec.ofNat 64 k := rfl
@[simp] theorem afterPulls_memIn (k : Nat) (s : State) : (afterPulls k s).memIn = s.memIn := rfl
@[simp] theorem afterPulls_busy (k : Nat) (s : State) : (afterPulls k s).busy = s.busy := rfl
@[simp] theorem afterPulls_mode (k : Nat) (s : State) : (afterPulls k s).mode = s.mode := rfl

/-- No pull changes nothing. -/
@[simp] theorem afterPulls_zero (s : State) : afterPulls 0 s = s := by
  simp [afterPulls, inputNumber]

@[simp] theorem entryAt_nil (i : Nat) : entryAt [] i = Entry.invalid := by simp [entryAt]

theorem entryAt_replicate {n i : Nat} (e : Entry) (h : i < n) : entryAt (List.replicate n e) i = e := by simp [entryAt, h]

/-- A level all of whose entries are one entry is replicated. -/
theorem replicates_of_const {t : List Entry} {base width : Nat} {e : Entry} (h : ∀ i, i < 2 ^ width → entryAt t (base + i) = e) :
    replicates t base width :=
  fun i hi j hj _ => (h j hj).trans (h i hi).symm

/-- A table with no entries, which reads as invalid throughout, has the levels of R178. -/
theorem tableLevels_nil (root : Nat) : TableLevels [] root where
  rootBits i _ := by
    rw [entryAt_nil]
    exact Nat.zero_le _
  rootReplicates := replicates_of_const (e := Entry.invalid) (fun i _ => entryAt_nil _)
  subBits i _ w h := by
    rw [entryAt_nil] at h
    cases h
  subReplicates i _ w h := by
    rw [entryAt_nil] at h
    cases h
  subLast i _ w h := by
    rw [entryAt_nil] at h
    cases h

end Sys2Proof.Machine
end

