-- ==== Sys2Proof/Tests/Slice0.lean ====
section
/-! SUPPORT. The model's own tests: the well-formedness checks, decoding of words written out from the spec's encodings, single
steps with the results of the spec's worked examples, and for every statement with hypotheses a concrete case that meets them. -/

namespace Sys2Proof.Tests

open Sys2Proof.Machine

/-! ### WellFormed refuses -/

theorem test_wf_cmdIllegal : (Instr.cmdIllegal 3).wf = false := by decide
theorem test_wf_align : (Instr.align 2 4).wf = false := by decide
theorem test_wf_clLen_zero : (Instr.clLen0 0).wf = false := by decide
theorem test_wf_clLen_eight : (Instr.clLen15 8).wf = false := by decide
theorem test_wf_clRep : (Instr.clRep 8 0).wf = false := by decide
theorem test_wf_lit : (Instr.lit 0 0x61).wf = false := by decide
theorem test_wf_dist : (Instr.dist29 0).wf = false := by decide
theorem test_wf_lenExtra_width : (Instr.lenExtra 6 0).wf = false := by decide
theorem test_wf_lenExtra_value : (Instr.lenExtra 2 4).wf = false := by decide
theorem test_wf_distExtra_width : (Instr.distExtra 14 0).wf = false := by decide
theorem test_wf_distExtra_value : (Instr.distExtra 1 2).wf = false := by decide
theorem test_wf_tLink : (Instr.tLink 0 9 512).wf = false := by decide
theorem test_wf_tInvalid_tag : (Instr.tInvalid 0x20 1 0).wf = false := by decide
theorem test_wf_tInvalid_built : (Instr.tInvalid 0x40 1 0).wf = false := by decide

/-! ### Decoding: each word is written out bit by bit from the encoding named -/

/-- R101: every command code, and the reserved ones at the ends of their ranges. -/
theorem test_decode_commands :
    ∀ p ∈ [((0x00 : Word), Instr.cmdIllegal 0), (0x01, .init), (0x02, .reset), (0x03, .stepCmd), (0x04, .setDict), (0x05, .sync),
           (0x06, .endCmd), (0x07, .cmdIllegal 7), (0xFF, .cmdIllegal 0xFF)], decode .command Entry.invalid p.1 = p.2 := by decide

/-- R109: the eight headers. -/
theorem test_decode_headers :
    ∀ p ∈ [((0b000 : Word), Instr.blkStored false), (0b001, .blkStored true), (0b010, .blkFixed false), (0b011, .blkFixed true),
           (0b100, .blkDynamic false), (0b101, .blkDynamic true), (0b110, .blkReserved false), (0b111, .blkReserved true)],
      decode .header Entry.invalid p.1 = p.2 := by decide

/-- R104 to R107, R110 to R112, R117, R118: the plain fields. -/
theorem test_decode_fields :
    decode .flag Entry.invalid 0x9C = .flg 0x9C ∧ decode (.dict 0) Entry.invalid 0x62 = .dictid 0 0x62 ∧
    decode (.check 1) Entry.invalid 0x8C = .adler32 1 0x8C ∧ decode .stored Entry.invalid 0x48 = .raw 0x48 ∧
    decode .btree Entry.invalid 0b110 = .cll 6 ∧ decode (.lenext 5) Entry.invalid 0b11110 = .lenExtra 5 30 := by decide

/-- R113, R168: the entries of the nineteen code-length symbols, codes of three bits, extra bits above them. -/
theorem test_decode_code_lengths :
    ∀ p ∈ [((0 : BitVec 16), Instr.clLen0 3), (1, .clLen1 3), (2, .clLen2 3), (3, .clLen3 3), (4, .clLen4 3),
           (5, .clLen5 3), (6, .clLen6 3), (7, .clLen7 3), (8, .clLen8 3), (9, .clLen9 3), (10, .clLen10 3),
           (11, .clLen11 3), (12, .clLen12 3), (13, .clLen13 3), (14, .clLen14 3), (15, .clLen15 3),
           (16, .clRep 3 1), (17, .clZrep3 3 5), (18, .clZrep11 3 0b1010101)],
      decode .dtree ⟨0x00, 3, p.1⟩ 0b1010101000 = p.2 := by decide

/-- R117, R123, R168: the entries of the twenty-nine length symbols. -/
theorem test_decode_lengths :
    ∀ p ∈ [((0x10 : BitVec 8), (3 : BitVec 16), Instr.len257 8), (0x10, 4, .len258 8), (0x10, 5, .len259 8),
           (0x10, 6, .len260 8), (0x10, 7, .len261 8), (0x10, 8, .len262 8), (0x10, 9, .len263 8),
           (0x10, 10, .len264 8), (0x11, 11, .len265 8), (0x11, 13, .len266 8), (0x11, 15, .len267 8),
           (0x11, 17, .len268 8), (0x12, 19, .len269 8), (0x12, 23, .len270 8), (0x12, 27, .len271 8),
           (0x12, 31, .len272 8), (0x13, 35, .len273 8), (0x13, 43, .len274 8), (0x13, 51, .len275 8),
           (0x13, 59, .len276 8), (0x14, 67, .len277 8), (0x14, 83, .len278 8), (0x14, 99, .len279 8),
           (0x14, 115, .len280 8), (0x15, 131, .len281 8), (0x15, 163, .len282 8), (0x15, 195, .len283 8),
           (0x15, 227, .len284 8), (0x10, 258, .len285 8)],
      decode .len ⟨p.1, 8, p.2.1⟩ 0 = p.2.2 := by decide

/-- R118, R123, R168: the entries of the thirty distance symbols. -/
theorem test_decode_distances :
    ∀ p ∈ [((0x10 : BitVec 8), (1 : BitVec 16), Instr.dist0 5), (0x10, 2, .dist1 5), (0x10, 3, .dist2 5),
           (0x10, 4, .dist3 5), (0x11, 5, .dist4 5), (0x11, 7, .dist5 5), (0x12, 9, .dist6 5), (0x12, 13, .dist7 5),
           (0x13, 17, .dist8 5), (0x13, 25, .dist9 5), (0x14, 33, .dist10 5), (0x14, 49, .dist11 5),
           (0x15, 65, .dist12 5), (0x15, 97, .dist13 5), (0x16, 129, .dist14 5), (0x16, 193, .dist15 5),
           (0x17, 257, .dist16 5), (0x17, 385, .dist17 5), (0x18, 513, .dist18 5), (0x18, 769, .dist19 5),
           (0x19, 1025, .dist20 5), (0x19, 1537, .dist21 5), (0x1A, 2049, .dist22 5), (0x1A, 3073, .dist23 5),
           (0x1B, 4097, .dist24 5), (0x1B, 6145, .dist25 5), (0x1C, 8193, .dist26 5), (0x1C, 12289, .dist27 5),
           (0x1D, 16385, .dist28 5), (0x1D, 24577, .dist29 5)],
      decode .dist ⟨p.1, 5, p.2.1⟩ 0 = p.2.2 := by decide

/-- R121, R168: the reserved symbols' fixed codes 11000110, 11000111, 11110, 11111, first stream bit lowest, and other invalid
entries. -/
theorem test_decode_invalid :
    decode .len ⟨0x40, 8, 0⟩ 0b01100011 = .llReserved286 ∧ decode .len ⟨0x40, 8, 0⟩ 0b11100011 = .llReserved287 ∧
    decode .dist ⟨0x40, 5, 0⟩ 0b01111 = .dReserved30 ∧ decode .dist ⟨0x40, 5, 0⟩ 0b11111 = .dReserved31 ∧
    decode .len ⟨0x40, 1, 0⟩ 1 = .llInvalid 1 ∧ decode .dist ⟨0x40, 0, 0⟩ 0 = .dInvalid 0 := by decide

/-- R123: entries no symbol of the alphabet has. -/
theorem test_decode_entries :
    decode .dist ⟨0x00, 4, 9⟩ 0 = .tLit 4 9 ∧ decode .dist ⟨0x0F, 6, 64⟩ 0 = .tLink 15 6 64 ∧
    decode .len ⟨0x1D, 4, 24577⟩ 0 = .tBase 13 4 24577 ∧ decode .dist ⟨0x20, 4, 0⟩ 0 = .tEob 4 0 ∧
    decode .len ⟨0x21, 4, 0⟩ 0 = .tInvalid 0x21 4 0 := by decide

/-- R104: CINFO 7, CM 8. -/
theorem test_decode_cmf : decode .method Entry.invalid 0b01111000 = .cmf 0x78 := by decide
/-- R106, R107. -/
theorem test_decode_dictid : decode (.dict 2) Entry.invalid 0b00001000 = .dictid 2 8 := by decide
theorem test_decode_adler : decode (.check 3) Entry.invalid 0b11110101 = .adler32 3 0xF5 := by decide
/-- R110: the bytes 05 00 FA FF, least significant first. -/
theorem test_decode_stlen : decode .lens Entry.invalid 0xFFFA0005 = .stlen 5 0xFFFA := by decide
/-- R110, R146: five padding bits of value 11111. -/
theorem test_decode_align : decode (.align 5) Entry.invalid 0b11111 = .align 5 31 := by decide
/-- R111: HLIT 00001, HDIST 00010, HCLEN 1110. -/
theorem test_decode_counts : decode .table Entry.invalid 0b11100001000001 = .counts 1 2 14 := by decide
/-- R113: symbol 18 with a 2-bit code, then the extra bits 1111111. -/
theorem test_decode_clZrep11 : decode .dtree ⟨0x00, 2, 18⟩ 0b111111101 = .clZrep11 2 127 := by decide
theorem test_decode_clInvalid : decode .dtree ⟨0x40, 1, 0⟩ 1 = .clInvalid 1 := by decide
/-- R222's example: index 0x089 of the fixed table is (0x00, 8, 0x61). -/
theorem test_decode_lit : decode .len ⟨0x00, 8, 0x61⟩ 0x089 = .lit 8 0x61 := by decide
theorem test_decode_eob : decode .len ⟨0x20, 7, 0⟩ 0 = .eob 7 := by decide
theorem test_decode_distExtra : decode (.distext 13) Entry.invalid 0x1FFF = .distExtra 13 8191 := by decide

/-! ### States for the tests -/

/-- A running raw engine with a window of 256 bytes, the stream `4B 04 02 00` of R241 before it and room for four bytes. -/
def demo : State :=
  { State.reset with
    own := true, busy := true, inBound := true, outBound := true, nowrap := true, mode := .blocks
    wbitsCfg := 15, wbits := 8, adler := 1
    memIn := [(0x1000, 0x4B), (0x1001, 0x04), (0x1002, 0x02), (0x1003, 0x00)]
    nextIn := 0x1000, availIn := 4, entryIn := 4, nextOut := 0x2000, availOut := 4, entryOut := 4 }

/-- `demo` in the symbol engine's state `c`. -/
def demoCodes (c : CMode) : State := { demo with bmode := .codes, cmode := c }

/-- `demo` in the block parser's state `b`. -/
def demoBlock (b : BMode) : State := { demo with bmode := b }

/-- `demo` in the middle of a match of length 3 at distance 1, one byte `61` written and pending (R241). -/
def demoCopy : State :=
  { demoCodes .copy with win := [(0, 0x61)], wr := 1, pend := 1, whave := 1, lenr := 3, distr := 1 }

/-- `demo` idle, with a command code waiting. -/
def demoCmd (c : Byte) : State := { demo with busy := false, cmd := some c }

/-- A host's loop with one input and one output slice left, one byte of output not taken. -/
def demoLoop : HostLoop :=
  { stage := .step, windowBits := 15, flushMode := 0, inputs := [(0x1000, 4)], outputs := [(0x3000, 8)], dict := some (7, 1)
    resync := true, again := false, outFrom := 0x2000, taken := [0x61] }

/-- `demo` idle, the host's last read having returned a status, one byte delivered. -/
def demoAnswer (code : BitVec 64) : State :=
  { demo with busy := false, hostData := code, nextOut := 0x2001, availOut := 3, memOut := [(0x2000, 0x62)] }

/-- What a test looks at in an outcome; `d` when there is no next state. -/
def look {α : Type} (f : State → α) (d : α) (o : Host.Outcome State Fault Refusal) : α :=
  match o with
  | .next t => f t
  | _ => d

/-- A test looks at a fetch or another operation that may stop the same way. -/
def got {α β : Type} (f : State → β) (d : β) (g : Got α) : β :=
  match g with
  | .ok _ t => f t
  | _ => d

/-! ### The operations, with the spec's examples -/

/-- R141's example: `BITB = 0b101`, `BITK = 3`, next byte `0x4B`. -/
theorem test_pull :
    got (fun t => (t.bitb, t.bitk, t.availIn)) (0, 0, 0) (pull { demo with bitb := 0b101, bitk := 3 }) = (0x25D, 11, 3) := by
  decide
/-- R143's example. -/
theorem test_consume :
    ((consume 3 { demo with bitb := 0x25D, bitk := 11 }).bitb, (consume 3 { demo with bitb := 0x25D, bitk := 11 }).bitk) =
      (0x4B, 8) := by decide
/-- R143: `consume(32)` with `BITK = 32` empties the accumulator. -/
theorem test_consume_all :
    ((consume 32 { demo with bitb := 0xFFFA0005, bitk := 32 }).bitb, (consume 32 { demo with bitb := 0xFFFA0005, bitk := 32 }).bitk) =
      (0, 0) := by decide
/-- R252's example: the write cursor wraps, `WHAVE` saturates. -/
theorem test_winWrite :
    let t := winWrite 0x79 { demo with wr := 255, pend := 3, whave := 256 }
    (winAt t.win 255, t.wr, t.pend, t.whave) = (0x79, 0, 4, 256) := by decide
/-- R260 (c): five bytes `Hello` pending, room for two. -/
theorem test_flush :
    let t := flush { demo with
      win := [(0, 0x48), (1, 0x65), (2, 0x6C), (3, 0x6C), (4, 0x6F)], pend := 5, whave := 5, wr := 5, availOut := 2 }
    (t.rd, t.pend, t.availOut, t.totalOut, t.adler) = (2, 3, 0, 2, 0x00F700AE) ∧
      t.memOut = [(0x2000, 0x48), (0x2001, 0x65)] := by decide
/-- R277. -/
theorem test_adler_abc : adlerOf 1 [0x61, 0x62, 0x63] = 0x024D0127 := by decide
theorem test_adler_hello : adlerOf 1 [0x48, 0x65, 0x6C, 0x6C, 0x6F] = 0x058C01F5 := by decide
/-- R163, R164: over-subscribed, incomplete, the permitted single code, empty. -/
theorem test_build_over : build [1, 1, 1] 7 .cl = .over := by decide
theorem test_build_incomplete : build [2, 2] 7 .cl = .incomplete := by decide
theorem test_build_single : build [0, 1] 1 .d = .ok [⟨0x10, 1, 2⟩, ⟨0x40, 1, 0⟩] := by decide
theorem test_build_empty : build [0, 0] 1 .d = .empty [⟨0x40, 0, 0⟩, ⟨0x40, 0, 0⟩] := by decide
/-- R170: a code longer than the root gets a linked sub-table. -/
theorem test_build_link :
    build [1, 2, 3, 3] 1 .cl =
      .ok [⟨0x00, 1, 0⟩, ⟨0x02, 1, 2⟩, ⟨0x00, 1, 1⟩, ⟨0x00, 2, 2⟩, ⟨0x00, 1, 1⟩, ⟨0x00, 2, 3⟩] := by decide

/-- R376, R383: on `OK` the host takes the delivered byte and, the engine having room, supplies input and steps again. -/
theorem test_loop_supply :
    let t := loopTurn demoLoop (demoAnswer 0)
    t.host = [.writeReg 0x04 0x1000, .writeReg 0x05 4, .writeReg 0x01 0, .writeReg 0x00 3, .readReg 0x02] ∧
      t.loop.map (fun l => (l.stage, l.taken, l.inputs)) = some (.step, [0x61, 0x62], []) := by decide
/-- R376: on `STREAM_END` the host takes the output and gives the stream up; on `DATA_ERROR` it reads `MSG` and resynchronises. -/
theorem test_loop_end :
    let t := loopTurn demoLoop (demoAnswer 1)
    t.host = [.writeReg 0x00 6] ∧ t.loop.map (fun l => (l.stage, l.taken)) = some (.over, [0x61, 0x62]) := by decide
theorem test_loop_error : (loopTurn demoLoop (demoAnswer 0xFD)).host = [.readReg 0x03, .writeReg 0x00 5, .readReg 0x02] := by
  decide

/-! ### Single instructions -/

/-- R283: -15 is a raw stream with a window of 32 KiB; gzip's 31 is refused. -/
theorem test_init_raw :
    look (fun t => (t.code, t.own, t.wbits, t.mode, t.adler)) (9, false, 0, .bad, 0) (exec .init { State.reset with arg := 0xF1 }) =
      (0, true, 15, .blocks, 1) := by decide
theorem test_init_gzip :
    look (fun t => (t.code, t.own)) (0, true) (exec .init { State.reset with arg := 0x1F }) = (0xFE, false) := by decide
theorem test_reset : look (fun t => (t.code, t.mode, t.bitk)) (9, .bad, 9) (exec .reset { demo with bitk := 8, mode := .bad }) =
    (0, .blocks, 0) := by decide
theorem test_stepCmd : look (fun t => (t.busy, t.flushr)) (false, 0) (exec .stepCmd { demo with busy := false, arg := 4 }) =
    (true, 4) := by decide
theorem test_stepCmd_mode : look (fun t => (t.busy, t.code)) (true, 0) (exec .stepCmd { demo with busy := false, arg := 1 }) =
    (false, 0xFE) := by decide
/-- R277, R297: the dictionary `61` has the checksum 0x00620062. -/
theorem test_setDict :
    look (fun t => (t.code, t.mode, t.whave)) (9, .bad, 0)
      (exec .setDict { demo with mode := .dict0, needw := 0x00620062, memDict := [(7, 0x61)], dictPtr := 7, dictLen := 1 }) =
      (0, .blocks, 1) := by decide
theorem test_setDict_wrong :
    look (fun t => (t.code, t.mode)) (9, .bad) (exec .setDict { demo with mode := .dict0, needw := 2 }) = (0xFD, .dict0) := by
  decide
/-- R303 (d): `11 00 00 00 FF FF` ends with the marker. -/
theorem test_sync :
    look (fun t => (t.code, t.mode, t.totalIn, t.availIn)) (9, .bad, 0, 0)
      (exec .sync { demo with
        mode := .bad, availIn := 7
        memIn := [(0x1000, 0x11), (0x1001, 0), (0x1002, 0), (0x1003, 0), (0x1004, 0xFF), (0x1005, 0xFF), (0x1006, 0x4B)] }) =
      (0, .blocks, 6, 1) := by decide
theorem test_endCmd : look (fun t => (t.code, t.own)) (9, true) (exec .endCmd demo) = (0, false) := by decide
/-- R291: window bits 15 against a configured 14. -/
theorem test_cmf_window :
    look (fun t => (t.msg, t.mode, t.busy, t.code)) (0, .flag, true, 0) (exec (.cmf 0x78) { demo with wbitsCfg := 14 }) =
      (2, .bad, false, 0xFD) := by decide
/-- R292: `0x789C` passes, `0x7802` does not, `0x78BB` asks for a dictionary. -/
theorem test_flg_ok :
    look (fun t => (t.mode, t.wbits)) (.bad, 0) (exec (.flg 0x9C) { demo with methodr := 0x78 }) = (.blocks, 15) := by decide
theorem test_flg_dict : look (fun t => t.mode) .bad (exec (.flg 0xBB) { demo with methodr := 0x78 }) = .dict4 := by decide
theorem test_flg_bad : look (fun t => t.msg) 0 (exec (.flg 0x02) { demo with methodr := 0x78 }) = 3 := by decide
/-- R303 (c): the id `62 20 08 B3`. -/
theorem test_dictid :
    look (fun t => (t.needw, t.mode)) (0, .bad) (exec (.dictid 3 0xB3) { demo with needw := 0x62200800 }) =
      (0x622008B3, .dict0) := by decide
theorem test_adler32_bad :
    look (fun t => (t.msg, t.needw)) (0, 1) (exec (.adler32 3 0x02) { demo with wasw := 1 }) = (14, 0) := by decide
/-- R191's example: `BITB = 0x4B`, `BITK = 8`. -/
theorem test_blkFixed :
    look (fun t => (t.last, t.bitb, t.bitk, t.cmode, t.lbits)) (false, 0, 0, .copy, 0)
      (exec (.blkFixed true) { demo with bitb := 0x4B, bitk := 8 }) = (true, 0x09, 5, .start, 9) := by decide
/-- R192's example. -/
theorem test_blkStored :
    look (fun t => (t.bitb, t.bitk, t.bmode)) (1, 1, .type) (exec (.blkStored true) { demo with bitb := 0x01, bitk := 8 }) =
      (0, 0, .lens) := by decide
/-- R211 (b). -/
theorem test_blkReserved :
    look (fun t => (t.msg, t.bitb, t.bitk, t.bmode)) (0, 0, 0, .type)
      (exec (.blkReserved true) { demo with bitb := 0x07, bitk := 8 }) = (4, 0x07, 8, .bbad) := by decide
/-- R196's examples. -/
theorem test_stlen :
    look (fun t => (t.left, t.bmode, t.bitk)) (0, .type, 1) (exec (.stlen 5 0xFFFA) { demo with bitb := 0xFFFA0005, bitk := 32 }) =
      (5, .stored, 0) := by decide
theorem test_stlen_bad :
    look (fun t => (t.msg, t.bitk)) (0, 0) (exec (.stlen 5 0xFFFB) { demo with bitb := 0xFFFB0005, bitk := 32 }) = (5, 32) := by
  decide
/-- R197's example. -/
theorem test_raw :
    look (fun t => (winAt t.win 0, t.wr, t.pend, t.left)) (0, 0, 0, 0)
      (exec (.raw 0x48) { demoBlock .stored with left := 5, bitb := 0x48, bitk := 8 }) = (0x48, 1, 1, 4) := by decide
/-- R198's example. -/
theorem test_counts : look (fun t => (t.nlen, t.ndist, t.nclen)) (0, 0, 0) (exec (.counts 1 0 14) demo) = (258, 1, 18) := by
  decide
/-- R199's example. -/
theorem test_cll : look (fun t => (t.cllens[16], t.index)) (0, 0) (exec (.cll 1) demo) = (1, 1) := by decide
theorem test_clLen5 : look (fun t => (t.lens[2], t.index)) (0, 0) (exec (.clLen5 3) { demo with index := 2 }) = (5, 3) := by
  decide +kernel
/-- R202: no previous length. -/
theorem test_clRep_first : look (fun t => (t.msg, t.bmode)) (0, .type) (exec (.clRep 1 0) { demo with nlen := 257, ndist := 1 }) =
    (8, .bbad) := by decide
/-- R204's example: extra 127 is 138 zeros. -/
theorem test_clZrep11 : look (fun t => t.index) 0 (exec (.clZrep11 2 127) { demo with nlen := 257, ndist := 1 }) = 138 := by
  decide
theorem test_len285 : look (fun t => (t.lenr, t.ext)) (0, 9) (exec (.len285 8) demo) = (258, 0) := by decide
theorem test_dist29 : look (fun t => (t.distr, t.ext)) (0, 0) (exec (.dist29 5) demo) = (24577, 13) := by decide
/-- R228's example. -/
theorem test_lenExtra : look (fun t => (t.lenr, t.cmode)) (0, .copy) (exec (.lenExtra 1 1) { demo with lenr := 11 }) =
    (12, .dist) := by decide
/-- R124: the greatest distance. -/
theorem test_distExtra : look (fun t => t.distr) 0 (exec (.distExtra 13 8191) { demo with distr := 24577 }) = 32768 := by
  decide
theorem test_tLink : look (fun t => (t.tptr, t.tneed, t.cmode)) (0, 0, .copy) (exec (.tLink 3 9 512) (demoCodes .len)) =
    (512, 3, .len) := by decide
theorem test_tLit_dist : look (fun t => (t.msg, t.cmode)) (0, .copy) (exec (.tLit 3 5) (demoCodes .dist)) = (12, .badcode) := by
  decide

/-! ### Single steps -/

/-- R241, step 1. -/
theorem test_step_type :
    look (fun t => (t.last, t.bmode, t.bitb, t.bitk, t.totalIn)) (false, .type, 0, 0, 0) (step demo) =
      (true, .codes, 0x09, 5, 1) := by decide
/-- R145, R302: no input, no progress. -/
theorem test_step_needs_input : look (fun t => (t.busy, t.code)) (true, 0) (step { demo with availIn := 0, entryIn := 0 }) =
    (false, 0xFB) := by decide
/-- R234: an overlapping copy. -/
theorem test_step_copy :
    look (fun t => (winAt t.win 1, t.lenr, t.whave)) (0, 0, 0) (step demoCopy) = (0x61, 2, 2) := by decide
/-- R234, R241: distance 2 with one byte of history; the byte before it is delivered. -/
theorem test_step_too_far :
    look (fun t => (t.msg, t.busy, t.totalOut, t.memOut)) (0, true, 0, []) (step { demoCopy with distr := 2 }) =
      (13, false, 1, [(0x2000, 0x61)]) := by decide
/-- R22: a code in `CMD` starts its command. -/
theorem test_step_command : look (fun t => (t.cmd, t.own)) (none, true) (step (demoCmd 6)) = (none, false) := by decide
/-- R26: a host write binds the input slice. -/
theorem test_step_host :
    look (fun t => (t.nextIn, t.inBound, t.host)) (0, false, []) (step { State.reset with host := [.writeReg 0x04 0x1234] }) =
      (0x1234, true, []) := by decide
/-- An instruction of a table word is the very next one to run. -/
theorem test_withFetchWord :
    look (fun t => t.code) 9 (step (State.reset.withFetchWord 16 0x04)) = 0xFE ∧
      look (fun t => t.methodr) 0 (step ({ State.reset with wbitsCfg := 15 }.withFetchWord 16 0x78)) = 0x78 ∧
      look (fun t => t.left) 0 (step (State.reset.withFetchWord 32 0xFFFA0005)) = 5 ∧
      look (fun t => t.lenr) 0 (step (State.reset.withFetchWord 16 0x11C)) = 227 := by decide

/-! ### The hypotheses of the statements can be met

One theorem a statement with hypotheses, `test_witness_<Statement>`: for every clause a concrete state and operands, at the edge
of its range where it has one. -/

theorem demo_readable : inputReadable demo := by
  intro a h1 h2
  have h1 : 0x1000 ≤ a := h1
  have h2 : a < 0x1004 := h2
  have : a = 0x1000 ∨ a = 0x1001 ∨ a = 0x1002 ∨ a = 0x1003 := by omega
  rcases this with rfl | rfl | rfl | rfl <;> exact ⟨_, rfl⟩

theorem demo_inv : Inv demo := by constructor <;> constructor <;> decide

theorem demoCopy_inv : Inv demoCopy := by constructor <;> constructor <;> decide

theorem test_witness_StepRunsDecodedInstruction :
    (demo.busy = true ∧ select demo = .element .header ∧
      (∃ t, fetch .header demo = .ok Entry.invalid t ∧ decode .header Entry.invalid t.bitb = .blkFixed true)) ∧
    (select { demo with availIn := 0 } = .element .header ∧
      ∃ t, fetch .header { demo with availIn := 0 } = .stop .needIn t) ∧
    select (demoCodes .start) = .micro .start ∧
    ((demoCmd 6).busy = false ∧ (demoCmd 6).cmd = some 6) ∧
    (State.reset.busy = false ∧ State.reset.cmd = none ∧ State.reset.host = [] ∧ State.reset.loop = none) ∧
    { State.reset with host := [.hardReset] }.host = .hardReset :: [] ∧
    { State.reset with loop := some demoLoop }.loop = some demoLoop :=
  ⟨⟨rfl, rfl, _, rfl, by decide⟩, ⟨rfl, _, rfl⟩, rfl, ⟨rfl, rfl⟩, ⟨rfl, rfl, rfl, rfl⟩, rfl, rfl⟩

theorem test_witness_DecodeOfEncodeIsIdentity :
    (Instr.lit 15 0xFF).wf = true ∧ (Instr.distExtra 13 8191).wf = true ∧ (Instr.cmdIllegal 0xFF).wf = true := by decide

theorem test_witness_DecodedInstructionsAreWellFormed :
    (decode .dtree ⟨0x00, 7, 18⟩ 0).wf = true ∧ (decode (.lenext 5) Entry.invalid 31).wf = true ∧
      (decode (.distext 13) Entry.invalid 8191).wf = true := by decide

theorem test_witness_HostRegisterFile :
    (0x02 : BitVec 8) ∉ [(0x00 : BitVec 8), 0x01, 0x04, 0x05, 0x06, 0x07, 0x0C, 0x0D] ∧ 0x0E ≤ (0x0E : BitVec 8).toNat ∧
      (1 : Nat) ≠ (0 : Word).toNat ∧
      ((demoAnswer 0).hostData.setWidth 8 = (0x00 : Byte) ∧ (demoAnswer 0).availOut ≠ 0 ∧
        { demoAnswer 0 with availOut := 0 }.availOut = 0) ∧
      ((demoAnswer 0xFE).hostData.setWidth 8 = (0xFE : Byte) ∧ (0xFE : Byte) ∉ [(0x00 : Byte), 0xFB, 0x02, 0x01, 0xFD]) ∧
      ((demoAnswer 2).hostData.setWidth 8 = (0x02 : Byte) ∧ (demoAnswer 0x1FD).hostData.setWidth 8 = (0xFD : Byte)) ∧
      (demoLoop.stage = .step ∧ demoLoop.inputs = (0x1000, 4) :: [] ∧ demoLoop.outputs = (0x3000, 8) :: [] ∧
        demoLoop.dict = some (7, 1) ∧ demoLoop.resync = true ∧ { demoLoop with stage := .init, inputs := [] }.stage = .init) := by
  decide

theorem test_witness_HardwareResetOwnsNothing :
    let s := { State.reset with cmd := some 0xFF }
    (0xFF : Byte) ≠ 1 ∧ s.own = false ∧ s.busy = false ∧ s.cmd = some 0xFF := by decide

theorem test_witness_PullTakesOneByte :
    { demo with availIn := 0 }.availIn = 0 ∧
    (let s := { demo with bitb := 0xFFFFFF, bitk := 24 }
     s.availIn ≠ 0 ∧ s.memIn.read s.nextIn.toNat = some 0x4B ∧ s.bitb.toNat < 2 ^ s.bitk.toNat ∧ s.bitk.toNat ≤ 24) := by
  decide

theorem test_witness_NeedBitsPullsFewest :
    inputReadable demo ∧ inWraps demo = false ∧ demo.bitk.toNat ≤ 32 ∧
      32 ≤ demo.bitk.toNat + 8 * demo.availIn.toNat ∧ 0 ≤ demo.bitk.toNat ∧
      { demo with availIn := 3 }.bitk.toNat + 8 * { demo with availIn := 3 }.availIn.toNat < 32 :=
  ⟨demo_readable, by decide, by decide, by decide, by decide, by decide⟩

/-- R151: `05 00 FA FF` are the 32 bits 0xFFFA0005. -/
theorem test_inputNumber : inputNumber [(9, 0x05), (10, 0x00), (11, 0xFA), (12, 0xFF)] 9 4 = 0xFFFA0005 := by decide

theorem test_witness_ConsumeDropsLowBits :
    let s := { demo with bitb := 0xFFFA0005, bitk := 32 }
    s.bitb.toNat < 2 ^ s.bitk.toNat ∧ s.bitk.toNat ≤ 32 ∧ 32 ≤ s.bitk.toNat ∧ 0 + 32 ≤ s.bitk.toNat := by decide

theorem test_witness_LookupPullsUntilHeld :
    let s := { demo with bitb := 1, bitk := 1 }
    (∃ t, lookup [⟨0, 1, 7⟩, ⟨0, 3, 9⟩] 0 1 s = .ok ⟨0, 3, 9⟩ t) ∧
    (∃ t, lookup [⟨0, 1, 7⟩, ⟨0, 3, 9⟩] 0 1 { s with availIn := 0 } = .stop .needIn t) ∧
    ([(⟨0, 1, 7⟩ : Entry), ⟨0, 1, 9⟩].getD (0 + s.bitb.toNat % 2 ^ 1) Entry.invalid).bits.toNat ≤ s.bitk.toNat ∧
    (inWraps demo = false ∧ inputReadable demo) ∧
    replicates [⟨0, 1, 7⟩, ⟨0, 2, 8⟩, ⟨0, 1, 7⟩, ⟨0, 2, 9⟩] 0 2 ∧ 3 % 2 ^ s.bitk.toNat = s.bitb.toNat :=
  ⟨⟨_, rfl⟩, ⟨_, rfl⟩, by decide, ⟨by decide, demo_readable⟩, by unfold replicates; decide, by decide⟩

theorem test_witness_SuspendedFetchResumes :
    let s := { demoBlock .lens with availIn := 1 }
    s.bitk.toNat ≤ 32 ∧ Slot.lens ≠ Slot.dtree ∧ s.availIn.toNat + (3 : Word).toNat < 2 ^ 32 ∧
      ∃ u, fetch .lens s = .stop .needIn u :=
  ⟨by decide, by decide, by decide, _, rfl⟩

/-- A code-length symbol whose code takes 1 of the 3 bits held and whose 7 extra bits are still to come. -/
def demoRepeat : State := { demoBlock .dtree with ct := List.replicate 128 ⟨0x00, 1, 18⟩, bitk := 3, availIn := 0 }

theorem demoRepeat_replicates : replicates demoRepeat.ct 0 7 :=
  replicates_of_const (e := ⟨0x00, 1, 18⟩) fun i hi => entryAt_replicate _ (by omega)

theorem test_witness_SuspendedFetchResumes_codeLength :
    replicates demoRepeat.ct 0 7 ∧ demoRepeat.availIn.toNat + (4 : Word).toNat < 2 ^ 32 ∧
      ∃ u, fetch .dtree demoRepeat = .stop .needIn u := ⟨demoRepeat_replicates, by decide, _, rfl⟩

theorem test_witness_BuildJudgesByKraftSum :
    (∀ l ∈ [0, 0], l = 0) ∧ (∃ l ∈ [1, 1, 15], l ≠ 0) ∧ 2 ^ 15 < kraftSum [1, 1, 15] ∧
      (kraftSum [15, 0] < 2 ^ 15 ∧ [15, 0].filter (· ≠ 0) ≠ [1]) ∧ kraftSum [1, 2, 2] = 2 ^ 15 ∧
      [0, 1].filter (· ≠ 0) = [1] := by decide

theorem test_witness_RootTableDecodesCanonicalCode :
    (∃ t, build [1, 2, 3, 3] 2 .cl = .ok t) ∧ ⟨1, 2, 1⟩ ∈ usedCodes [1, 2, 3, 3] ∧ 2 ≤ 2 ∧ 1 % 2 ^ 2 = 1 ∧
    (⟨3, 3, 7⟩ ∈ usedCodes [1, 2, 3, 3] ∧ 2 < 3 ∧ 1 % 2 ^ (3 - 2) = 7 / 2 ^ 2) ∧
    ((∃ t, build [0, 1] 2 .d = .ok t) ∧ ∀ u ∈ usedCodes [0, 1], 3 % 2 ^ min u.len 2 ≠ u.rcode % 2 ^ 2) ∧
    (∃ t, build [0] 2 .d = .empty t) :=
  ⟨⟨_, rfl⟩, by decide, by decide, by decide, by decide, ⟨⟨_, rfl⟩, by decide⟩, _, rfl⟩

theorem test_witness_block_steps :
    (demo.busy = true ∧ demo.mode = .blocks ∧ demo.bmode = .type) ∧
    ((demoBlock .lens).busy = true ∧ (demoBlock .lens).bmode = .lens) ∧
    ((demoBlock .stored).bmode = .stored ∧ (demoBlock .stored).pend.toNat ≠ wsize (demoBlock .stored)) ∧
    (demoBlock .table).bmode = .table ∧
    (let s := { demoBlock .btree with nclen := 19, index := 18 }
     s.bmode = .btree ∧ s.index.toNat < s.nclen.toNat) ∧
    ((demoBlock .dry).bmode = .dry ∧ (demoBlock .bdone).bmode = .bdone ∧ (demoBlock .dry).bmode ≠ .bdone) := by decide

theorem test_witness_StoredLengthIsChecked :
    (0 : BitVec 16).toNat + (0xFFFF : BitVec 16).toNat = 0xFFFF ∧ (0 : BitVec 16).toNat + (0xFFFE : BitVec 16).toNat ≠ 0xFFFF := by
  decide

theorem test_witness_DynamicCountsAreChecked :
    29 < (30 : BitVec 5).toNat ∧ (29 : BitVec 5).toNat ≤ 29 := by decide

theorem test_witness_RepeatsStoreRunsOfLengths :
    let s := { demo with nlen := 286, ndist := 30, index := 313 }
    s.nlen.toNat + s.ndist.toNat ≤ 316 ∧
      (1 ≤ s.index.toNat ∧ s.index.toNat + (3 + (0 : BitVec 2).toNat) ≤ s.nlen.toNat + s.ndist.toNat) ∧
      s.nlen.toNat + s.ndist.toNat < s.index.toNat + (3 + (1 : BitVec 2).toNat) ∧
      { s with index := 0 }.index.toNat = 0 := by decide

theorem test_witness_CodeLengthStepFollowsEntry :
    let s := { demoBlock .dtree with nlen := 257, ndist := 1, index := 257, ct := [⟨0x00, 1, 18⟩, ⟨0x40, 1, 0⟩] }
    s.busy = true ∧ s.mode = .blocks ∧ s.bmode = .dtree ∧ s.index.toNat < s.nlen.toNat + s.ndist.toNat ∧
      ∀ e ∈ s.ct, entryClass e.op = .lit → e.val.toNat ≤ 18 := by decide

theorem test_witness_DynamicTablesAreBuilt :
    (let s := { demoBlock .btree with nclen := 4, index := 4 }
     s.nclen.toNat ≤ s.index.toNat ∧
       (∃ t, build ((#v[1, 0, 0, 0, 0, 0, 0, 0, 0, 0, 0, 0, 0, 0, 0, 0, 0, 0, 0] : Vector (BitVec 3) 19).toList.map BitVec.toNat)
         7 .cl = .ok t)) ∧
    (let s := { demoBlock .dtree with nlen := 257, ndist := 1, index := 258 }
     s.nlen.toNat + s.ndist.toNat ≤ s.index.toNat) ∧
    (∃ t, build [1, 1] 9 .ll = .ok t) ∧ build [1, 1, 1] 6 .d = .over ∧ build [2] 6 .d = .incomplete ∧
    (∃ u, build [0] 6 .d = .empty u) ∧ build [0] 9 .ll ≠ .ok [] ∧ (∀ t, build [2] 7 .cl ≠ .ok t) :=
  ⟨⟨by decide, _, rfl⟩, by decide, ⟨_, rfl⟩, by decide, by decide, ⟨_, rfl⟩, by decide,
    fun t h => by have : build [2] 7 .cl = .incomplete := by decide
                  rw [this] at h; cases h⟩

theorem test_witness_TableEntriesActByClass :
    (demoCodes .len).bmode = .codes ∧ (demoCodes .len).cmode = .len ∧ (demoCodes .dist).cmode = .dist ∧
      (demoBlock .dtree).bmode = .dtree ∧ (15 : BitVec 16).toNat ≤ 15 := by decide

theorem test_witness_symbol_steps :
    (demoCodes .len).busy = true ∧ (demoCodes .len).mode = .blocks ∧ (demoCodes .len).bmode = .codes ∧
      (demoCodes .len).cmode = .len ∧ (demoCodes .dist).cmode = .dist ∧ (demoCodes .lenext).cmode = .lenext ∧
      (demoCodes .distext).cmode = .distext ∧ (demoCodes .start).cmode = .start ∧ (demoCodes .lit).cmode = .lit ∧
      (demoCodes .wash).cmode = .wash ∧ (demoCodes .blockEnd).cmode = .blockEnd := by decide

theorem test_witness_CopyStepRepeatsHistory :
    demoCopy.busy = true ∧ demoCopy.mode = .blocks ∧ demoCopy.bmode = .codes ∧ demoCopy.cmode = .copy ∧
      demoCopy.distr.toNat ≤ demoCopy.whave.toNat ∧ demoCopy.lenr ≠ 0 ∧
      { demoCopy with distr := 2 }.whave.toNat < { demoCopy with distr := 2 }.distr.toNat ∧
      { demoCopy with lenr := 0 }.lenr = 0 := by decide

theorem test_witness_MatchWritesBackReference :
    Inv demoCopy ∧ demoCopy.busy = true ∧ demoCopy.mode = .blocks ∧ demoCopy.bmode = .codes ∧ demoCopy.cmode = .copy ∧
      1 ≤ demoCopy.lenr.toNat ∧ 1 ≤ demoCopy.distr.toNat ∧ demoCopy.distr.toNat ≤ demoCopy.whave.toNat ∧
      demoCopy.pend.toNat + demoCopy.lenr.toNat ≤ wsize demoCopy :=
  ⟨demoCopy_inv, by decide, by decide, by decide, by decide, by decide, by decide, by decide, by decide⟩

/-- A window of 256 bytes that is full of pending bytes. -/
def demoFull : State := { demo with pend := 256, whave := 256 }

theorem demoFull_window : WindowInv demoFull := by constructor <;> decide

theorem test_witness_WindowKeepsHistory :
    WindowInv demoCopy ∧ winWf demoCopy.win = true ∧ demoCopy.pend.toNat < wsize demoCopy ∧ 1 ≤ 255 ∧ 255 < wsize demoCopy :=
  ⟨demoCopy_inv.window, by decide, by decide, by decide, by decide⟩

theorem test_witness_RoomFreesOneByte :
    WindowInv demoFull ∧ demoFull.pend.toNat = wsize demoFull ∧ demoFull.availOut ≠ 0 ∧
      { demoFull with availOut := 0 }.availOut = 0 ∧ WindowInv demo ∧ demo.pend.toNat < wsize demo :=
  ⟨demoFull_window, by decide, by decide, by decide, demo_inv.window, by decide⟩

theorem test_witness_FlushDeliversInOrder :
    WindowInv demoCopy ∧ outWraps { demoCopy with nextOut := 0xFFFFFFFC } = false ∧
      (0 : Nat) < min demoCopy.pend.toNat demoCopy.availOut.toNat :=
  ⟨demoCopy_inv.window, by decide, by decide⟩

theorem test_witness_StoppedStepReportsStatus :
    ∃ t, step { demo with availIn := 0 } = .next t ∧ t.busy = false := ⟨_, rfl, rfl⟩

theorem test_witness_MethodByteIsChecked :
    (0x1F : Byte).toNat % 16 ≠ 8 ∧ (0x78 : Byte).toNat % 16 = 8 ∧
      { demo with wbitsCfg := 14 }.wbitsCfg.toNat < (0x78 : Byte).toNat / 16 + 8 ∧
      (0x78 : Byte).toNat / 16 + 8 ≤ demo.wbitsCfg.toNat ∧ { demo with mode := .method }.mode = .method := by decide

theorem test_witness_FlagByteIsChecked :
    (0x78 * 256 + (0x02 : Byte).toNat) % 31 ≠ 0 ∧ (0x78 * 256 + (0x9C : Byte).toNat) % 31 = 0 ∧
      { demo with mode := .flag, methodr := 0x78 }.mode = .flag := by decide

theorem test_witness_wrapper_words :
    { demo with mode := .dict4 }.mode = .dict4 ∧ { demo with mode := .check1 }.mode = .check1 ∧
      (let s := { demo with needw := 0x058C0100, wasw := 0x058C01F5 }
       s.needw ||| (0xF5 : Byte).setWidth 32 = s.wasw ∧ s.needw ||| (0xF4 : Byte).setWidth 32 ≠ s.wasw) := by decide

theorem test_witness_TerminalModesStop :
    { demo with mode := .dict0 }.mode = .dict0 ∧ { demo with mode := .done }.mode = .done ∧
      { demo with mode := .bad }.mode = .bad ∧ demo.busy = true := by decide

theorem test_witness_MisusedCommandsAreRefused :
    7 ≤ (7 : Byte).toNat ∧ (demoCmd 7).busy = false ∧ (demoCmd 7).cmd = some 7 ∧ State.reset.own = false := by decide

theorem test_witness_InitSelectsWrapperAndWindow :
    (8 ≤ (0x08 : Byte).toInt ∧ (0x08 : Byte).toInt ≤ 15) ∧ (-15 ≤ (0xF1 : Byte).toInt ∧ (0xF1 : Byte).toInt ≤ -8) ∧
      ¬(8 ≤ (0xF0 : Byte).toInt ∧ (0xF0 : Byte).toInt ≤ 15) ∧ ¬(-15 ≤ (0xF0 : Byte).toInt ∧ (0xF0 : Byte).toInt ≤ -8) := by
  decide

theorem test_witness_StepChecksAtEntry :
    demo.own = true ∧ { demo with inBound := false }.inBound = false ∧
      ((1 : Byte) ≠ 0 ∧ (1 : Byte) ≠ 2 ∧ (1 : Byte) ≠ 4) ∧
      (let s := { demo with nextIn := 0xFFFFFFFF, availIn := 2 }
       2 ^ 32 < s.nextIn.toNat + s.availIn.toNat) ∧
      (let s := { demo with nextIn := 0xFFFFFFFF, availIn := 1, arg := 4 }
       ¬(s.inBound = false ∨ s.outBound = false) ∧ ¬(s.arg ≠ 0 ∧ s.arg ≠ 2 ∧ s.arg ≠ 4) ∧
         ¬(2 ^ 32 < s.nextIn.toNat + s.availIn.toNat ∨ 2 ^ 32 < s.nextOut.toNat + s.availOut.toNat) ∧
         s.mode ≠ .bad ∧ s.mode ≠ .done ∧ s.mode ≠ .dict0) := by decide

theorem test_witness_SetDictLoadsTheWindow :
    let s := { demo with mode := .dict0, memDict := [(0xFFFFFFFF, 0x61)], dictPtr := 0xFFFFFFFF, dictLen := 1, needw := 0x00620062 }
    s.own = true ∧ s.mode = .dict0 ∧ s.dictPtr.toNat + s.dictLen.toNat ≤ 2 ^ 32 ∧ [(0x61 : Byte)].length = s.dictLen.toNat ∧
      holds s.memDict s.dictPtr.toNat [0x61] ∧ adlerOf 1 [0x61] = s.needw ∧ winWf s.win = true ∧
      adlerOf 1 [0x61] ≠ { s with needw := 1 }.needw ∧ { s with mode := .blocks }.mode ≠ .dict0 ∧
      2 ^ 32 < { s with dictLen := 2 }.dictPtr.toNat + { s with dictLen := 2 }.dictLen.toNat := by
  unfold holds
  decide

theorem test_witness_SyncRestartsAfterFirstMarker :
    let s := { demo with
      mode := .bad, availIn := 6
      memIn := [(0x1000, 0), (0x1001, 0), (0x1002, 0), (0x1003, 0xFF), (0x1004, 0xFF), (0x1005, 0x4B)] }
    s.own = true ∧ s.inBound = true ∧ s.nextIn.toNat + s.availIn.toNat ≤ 2 ^ 32 ∧ s.marker.toNat ≤ 3 ∧
      s.availIn.toNat = [(0 : Byte), 0, 0, 0xFF, 0xFF].length + [(0x4B : Byte)].length ∧
      holds s.memIn s.nextIn.toNat ([(0 : Byte), 0, 0, 0xFF, 0xFF] ++ [0x4B]) ∧
      [(0x00 : Byte), 0x00, 0xFF, 0xFF] <:+ [] ++ [(0 : Byte), 0, 0, 0xFF, 0xFF] ∧
      ¬([(0x00 : Byte), 0x00, 0xFF, 0xFF] <:+: ([] ++ [(0 : Byte), 0, 0, 0xFF, 0xFF]).dropLast) := by
  unfold holds
  decide

/-- The variant of program P5: `00 00 FF` were matched by an earlier SYNC, and `FF` comes now. -/
theorem test_witness_SyncRestartsAfterFirstMarker_split :
    let s := { demo with mode := .bad, marker := 3, availIn := 1, memIn := [(0x1000, 0xFF)] }
    s.mode = .bad ∧ s.marker.toNat ≤ 3 ∧ s.availIn.toNat = [(0xFF : Byte)].length + ([] : List Byte).length ∧
      holds s.memIn s.nextIn.toNat ([0xFF] ++ []) ∧
      [(0x00 : Byte), 0x00, 0xFF, 0xFF] <:+ [(0x00 : Byte), 0x00, 0xFF, 0xFF].take s.marker.toNat ++ [0xFF] ∧
      ¬([(0x00 : Byte), 0x00, 0xFF, 0xFF] <:+: ([(0x00 : Byte), 0x00, 0xFF, 0xFF].take s.marker.toNat ++ [0xFF]).dropLast) := by
  unfold holds
  decide

theorem test_witness_SyncWithoutMarkerLeavesStreamBad :
    { demo with inBound := false }.inBound = false ∧ { demo with availIn := 0 }.availIn = 0 ∧
    (let s := { demo with mode := .bad, marker := 3, availIn := 3, memIn := [(0x1000, 0), (0x1001, 0), (0x1002, 0xFF)] }
     s.own = true ∧ s.inBound = true ∧ s.nextIn.toNat + s.availIn.toNat ≤ 2 ^ 32 ∧ s.mode = .bad ∧ s.marker.toNat ≤ 3 ∧
       s.availIn.toNat = [(0 : Byte), 0, 0xFF].length ∧ [(0 : Byte), 0, 0xFF] ≠ [] ∧
       holds s.memIn s.nextIn.toNat [0, 0, 0xFF] ∧
       ¬([(0x00 : Byte), 0x00, 0xFF, 0xFF] <:+:
         [(0x00 : Byte), 0x00, 0xFF, 0xFF].take s.marker.toNat ++ [(0 : Byte), 0, 0xFF])) := by
  unfold holds
  decide

/-- P5's variant: with `MARKER = 2` the bytes `FF 00 00 00 FF FF` complete a marker that begins among them. -/
theorem test_sync_split :
    look (fun t => (t.code, t.availIn)) (9, 9)
      (exec .sync { demo with
        mode := .bad, marker := 2, availIn := 7
        memIn := [(0x1000, 0xFF), (0x1001, 0), (0x1002, 0), (0x1003, 0), (0x1004, 0xFF), (0x1005, 0xFF), (0x1006, 0x03)] }) =
      (0, 1) := by decide

theorem test_witness_EveryStepKeepsInvariant : Inv demo ∧ ∃ t, step demo = .next t := ⟨demo_inv, _, rfl⟩

theorem test_witness_StepNeverFaultsOnReadableSlices :
    Inv demo ∧ inputReadable demo ∧
      ∀ a, demo.dictPtr.toNat ≤ a → a < demo.dictPtr.toNat + demo.dictLen.toNat → ∃ b, demo.memDict.read a = some b := by
  refine ⟨demo_inv, demo_readable, fun a h1 h2 => ?_⟩
  have h2 : a < 0 := h2
  omega

theorem test_witness_RunningStepTerminates : Inv demo ∧ demo.busy = true ∧ inputReadable demo :=
  ⟨demo_inv, rfl, demo_readable⟩

theorem test_witness_EngineNeverWritesHostSide :
    (∃ t, step demo = .next t) ∧ ((demoCmd 2).cmd ≠ none ∧ (demoCmd 2).cmd ≠ some 1 ∧ ∃ t, step (demoCmd 2) = .next t) :=
  ⟨⟨_, rfl⟩, by decide, by decide, _, rfl⟩

theorem test_witness_BadModeIsLeftOnlyByResync :
    (∃ t, step { demoCmd 2 with mode := .bad } = .next t ∧ t.mode ≠ .bad) ∧
    (let s := { demoCmd 3 with mode := .bad }
     s.mode = .bad ∧ s.busy = false ∧ s.cmd = some 3 ∧ s.own = true ∧ s.inBound = true ∧ s.outBound = true ∧ s.arg = 0 ∧
       inWraps s = false ∧ outWraps s = false) :=
  ⟨⟨_, rfl, by decide⟩, by decide⟩

theorem test_witness_OwnershipChangesOnlyByInitEnd :
    ∃ t, step (demoCmd 6) = .next t ∧ t.own ≠ (demoCmd 6).own := ⟨_, rfl, by decide⟩

/-- `demo` decoding a literal/length symbol with the two-level table of the lengths 1, 2, 3, 3. -/
def demoTable : State :=
  { demoCodes .len with
    lt := [⟨0x00, 1, 0⟩, ⟨0x02, 1, 2⟩, ⟨0x00, 1, 1⟩, ⟨0x00, 2, 2⟩, ⟨0x00, 1, 1⟩, ⟨0x00, 2, 3⟩], lbits := 1, tptr := 2, tneed := 2 }

theorem demoTable_inv : Inv demoTable := by constructor <;> constructor <;> decide

theorem demoTable_inForce : TablesInForce demoTable where
  lt := by
    constructor
    · decide
    · unfold replicates
      decide
    · decide
    · unfold replicates
      decide
    · decide
  dt := tableLevels_nil _
  ct := tableLevels_nil _
  lenLevel _ _ := .inr ⟨1, 2, by decide, by decide, by decide, by decide⟩
  distLevel _ h := by cases h

theorem test_witness_CommittedMicroStepHoldsUnderOneByte :
    Inv demoTable ∧ TablesInForce demoTable ∧ demoTable.bitk.toNat ≤ 7 ∧
      ∃ t, step demoTable = .next t ∧ demoTable.busy = true ∧ t.busy = true :=
  ⟨demoTable_inv, demoTable_inForce, by decide, _, rfl, rfl, rfl⟩

end Sys2Proof.Tests
end

section
/-! SUPPORT. INIT's argument (R102) and what INIT does with it (R283, R284). -/

namespace Sys2Proof.Machine

/-- A two's complement byte from 8 to 15 has bits 4 and 5 clear, so the refusal of those bits (R102) takes nothing from the range. -/
theorem fieldAt_zlib_arg {a : Byte} (h : 8 ≤ a.toInt ∧ a.toInt ≤ 15) : fieldAt a.toNat 4 1 = 0 ∧ fieldAt a.toNat 5 1 = 0 := by
  have hlow : a.toNat < 16 := by
    have hcond := BitVec.toInt_eq_toNat_cond a
    split at hcond <;> omega
  simp only [fieldAt]
  omega

/-- 8 to 15 ask for the zlib wrapper (R102). -/
theorem decodeInitArg_zlib {a : Byte} (h : 8 ≤ a.toInt ∧ a.toInt ≤ 15) : decodeInitArg a = some (false, a.toInt.natAbs) := by
  obtain ⟨hbit4, hbit5⟩ := fieldAt_zlib_arg h
  have hsign : ¬a.toInt < 0 := by omega
  simp [decodeInitArg, Config.wbitsMin, Config.wbitsMax, hsign, hbit4, hbit5, h]

/-- -15 to -8 ask for raw blocks (R102). -/
theorem decodeInitArg_raw {a : Byte} (h : -15 ≤ a.toInt ∧ a.toInt ≤ -8) : decodeInitArg a = some (true, a.toInt.natAbs) := by
  have hsign : a.toInt < 0 := by omega
  have hrange : 8 ≤ -a.toInt ∧ -a.toInt ≤ 15 := by omega
  simp [decodeInitArg, Config.wbitsMin, Config.wbitsMax, hsign, hrange]

/-- Every other argument is refused (R102). -/
theorem decodeInitArg_eq_none {a : Byte} (hzlib : ¬(8 ≤ a.toInt ∧ a.toInt ≤ 15)) (hraw : ¬(-15 ≤ a.toInt ∧ a.toInt ≤ -8)) :
    decodeInitArg a = none := by
  have hneg : ¬(8 ≤ -a.toInt ∧ -a.toInt ≤ 15) := by omega
  simp [decodeInitArg, Config.wbitsMin, Config.wbitsMax, hzlib, hneg]

/-- INIT with a refused argument answers `STREAM_ERROR` (R283). -/
theorem execInit_of_none {s : State} (h : decodeInitArg s.arg = none) : execInit s = .next (ret .streamError s) := by
  simp [execInit, h]

/-- INIT with a legal argument gives the stream to the host, unbinds the slices, and resets (R283). -/
theorem execInit_of_some {s : State} {raw : Bool} {wb : Nat} (h : decodeInitArg s.arg = some (raw, wb)) :
    execInit s = .next (ret .ok (resetState
      { s with
        own := true, nowrap := raw, wbitsCfg := BitVec.ofNat 4 wb
        availIn := 0, availOut := 0, inBound := false, outBound := false })) := by
  simp [execInit, h]

/-- Settles O46, by the three ranges of the argument: zlib, raw, refused. -/
theorem initSelectsWrapperAndWindow : Obligations.InitSelectsWrapperAndWindow := by
  unfold Obligations.InitSelectsWrapperAndWindow
  intro s
  refine ⟨fun hzlib hraw => execInit_of_none (decodeInitArg_eq_none hzlib hraw), ?_⟩
  rintro (hzlib | hraw)
  · have hsign : ¬s.arg.toInt < 0 := by omega
    refine (execInit_of_some (decodeInitArg_zlib hzlib)).trans ?_
    simp only [hsign, decide_false, if_false]
    rfl
  · have hsign : s.arg.toInt < 0 := by omega
    refine (execInit_of_some (decodeInitArg_raw hraw)).trans ?_
    simp only [hsign, decide_true, if_true]
    rfl

end Sys2Proof.Machine
end

section
/-! SUPPORT. The canonical codes of R122 as numbers, first code bit highest, and the table entry at a code (R163 to R169). -/

namespace Sys2Proof.Machine

/-! ### `rev` -/

theorem rev_lt (c n : Nat) : rev c n < 2 ^ n := by
  induction n generalizing c with
  | zero => simp [rev]
  | succ n ih =>
    have hbit : c % 2 * 2 ^ n ≤ 1 * 2 ^ n := Nat.mul_le_mul_right _ (by omega)
    have hrest := ih (c / 2)
    rw [rev, Nat.pow_succ]
    omega

/-- `rev` turns the order of the bits around (R13). -/
theorem rev_testBit (c n i : Nat) : (rev c n).testBit i = (decide (i < n) && c.testBit (n - 1 - i)) := by
  induction n generalizing c i with
  | zero => simp [rev]
  | succ n ih =>
    rw [rev, Nat.mul_comm, Nat.testBit_two_pow_mul_add _ (rev_lt _ _)]
    split
    · next hi =>
      simp [hi, ih, ← Nat.testBit_succ, show n - 1 - i + 1 = n - i by omega, show i < n + 1 by omega]
    · next hi =>
      rcases Nat.eq_or_lt_of_le (Nat.le_of_not_lt hi) with rfl | hgt
      · simp [Nat.testBit_zero]
      · have hhigh : (c % 2).testBit (i - n) = false :=
          Nat.testBit_lt_two_pow ((Nat.mod_lt c two_pos).trans_le (Nat.le_self_pow (by omega) 2))
        simp [hhigh, show ¬i < n + 1 by omega]

/-- The first `l` stream bits of an `m`-bit code are the code's upper `l` bits. -/
theorem rev_mod_two_pow (c : Nat) {l m : Nat} (h : l ≤ m) : rev c m % 2 ^ l = rev (c / 2 ^ (m - l)) l := by
  apply Nat.eq_of_testBit_eq
  intro i
  by_cases hi : i < l
  · simp [rev_testBit, Nat.testBit_mod_two_pow, Nat.testBit_div_two_pow, hi, show i < m by omega,
      show l - 1 - i + (m - l) = m - 1 - i by omega]
  · simp [rev_testBit, Nat.testBit_mod_two_pow, hi]

theorem rev_rev {c n : Nat} (h : c < 2 ^ n) : rev (rev c n) n = c := by
  apply Nat.eq_of_testBit_eq
  intro i
  by_cases hi : i < n
  · simp [rev_testBit, hi, show n - 1 - i < n by omega, show n - 1 - (n - 1 - i) = i by omega]
  · have hzero := Nat.testBit_lt_two_pow (h.trans_le (Nat.pow_le_pow_right two_pos (Nat.le_of_not_lt hi)))
    simp [rev_testBit, hi, hzero]

theorem rev_inj {c d n : Nat} (hc : c < 2 ^ n) (hd : d < 2 ^ n) (h : rev c n = rev d n) : c = d := by
  rw [← rev_rev hc, h, rev_rev hd]

/-! ### The first code of each length, and the Kraft sum -/

/-- What the codes shorter than `b` take of the `b`-bit code space. -/
def spaceBelow (lens : List Nat) (b : Nat) : Nat := (lens.map (fun l => if l = 0 ∨ b ≤ l then 0 else 2 ^ (b - l))).sum

theorem spaceBelow_cons (l : Nat) (lens : List Nat) (b : Nat) :
    spaceBelow (l :: lens) b = (if l = 0 ∨ b ≤ l then 0 else 2 ^ (b - l)) + spaceBelow lens b := by
  simp [spaceBelow]

theorem lenCount_cons (l : Nat) (lens : List Nat) (b : Nat) :
    lenCount (l :: lens) b = (if l = b ∧ b ≠ 0 then 1 else 0) + lenCount lens b := by
  by_cases hb : b = 0
  · simp [lenCount, hb]
  · simp [lenCount, hb, List.count_cons, Nat.add_comm]

theorem spaceBelow_succ (lens : List Nat) (b : Nat) : spaceBelow lens (b + 1) = 2 * (spaceBelow lens b + lenCount lens b) := by
  induction lens with
  | nil => simp [spaceBelow, lenCount]
  | cons l lens ih =>
    have hhead : (if l = 0 ∨ b + 1 ≤ l then 0 else 2 ^ (b + 1 - l)) =
        2 * ((if l = 0 ∨ b ≤ l then 0 else 2 ^ (b - l)) + if l = b ∧ b ≠ 0 then 1 else 0) := by
      rcases Nat.lt_trichotomy l b with hlt | rfl | hgt
      · simp [Nat.succ_sub hlt.le, Nat.pow_succ, Nat.mul_comm, hlt.ne, hlt.not_ge, show ¬b + 1 ≤ l by omega]
      · by_cases hl : l = 0 <;> simp [hl]
      · simp [hgt.ne', hgt.le, show b + 1 ≤ l from hgt]
    rw [spaceBelow_cons, spaceBelow_cons, lenCount_cons, ih, hhead]
    ring

/-- The first code of a length follows the space of the shorter ones (R122). -/
theorem firstCode_eq_spaceBelow (lens : List Nat) (b : Nat) : firstCode lens b = spaceBelow lens b := by
  induction b with
  | zero => simp [firstCode, spaceBelow]
  | succ b ih => rw [firstCode, ih, spaceBelow_succ]

/-- `left_b` is the space that the codes of length up to `b` leave (R163). -/
theorem leftAt_eq (lens : List Nat) (b : Nat) : leftAt lens b = 2 ^ b - ((firstCode lens b + lenCount lens b : Nat) : Int) := by
  induction b with
  | zero => simp [leftAt, firstCode, lenCount]
  | succ b ih =>
    rw [leftAt, ih, firstCode]
    push_cast
    ring

/-- No code being longer than 15, the Kraft sum is where a code of length 16 would start, in units of `2^-16` (R122, R163). -/
theorem kraftSum_eq {lens : List Nat} (h : ∀ l ∈ lens, l ≤ 15) : 2 * kraftSum lens = firstCode lens 16 := by
  rw [firstCode_eq_spaceBelow, spaceBelow, kraftSum, ← List.sum_map_mul_left]
  congr 1
  refine List.map_congr_left (fun l hl => ?_)
  have hle := h l hl
  by_cases hl0 : l = 0
  · simp [hl0]
  · simp [hl0, show ¬16 ≤ l by omega, show 16 - l = 15 - l + 1 by omega, Nat.pow_succ, Nat.mul_comm]

theorem leftAt_fifteen {lens : List Nat} (h : ∀ l ∈ lens, l ≤ 15) : leftAt lens 15 = 2 ^ 15 - (kraftSum lens : Int) := by
  have hkraft := kraftSum_eq h
  rw [firstCode] at hkraft
  rw [leftAt_eq]
  omega

/-- An over-subscribed length stays over-subscribed at every longer one. -/
theorem leftAt_neg_mono {lens : List Nat} {b c : Nat} (hbc : b ≤ c) (h : leftAt lens b < 0) : leftAt lens c < 0 := by
  induction c, hbc using Nat.le_induction with
  | base => exact h
  | succ c _ ih =>
    rw [leftAt]
    omega

/-- A set is over-subscribed exactly when its Kraft sum is above 1 (R163). -/
theorem overSubscribed_iff {lens : List Nat} (h : ∀ l ∈ lens, l ≤ 15) : overSubscribed lens = true ↔ 2 ^ 15 < kraftSum lens := by
  have hleft := leftAt_fifteen h
  simp only [overSubscribed, List.any_eq_true, List.mem_range, decide_eq_true_eq]
  constructor
  · rintro ⟨b, hb, hneg⟩
    have := leftAt_neg_mono (show b ≤ 15 by omega) hneg
    omega
  · intro hk
    exact ⟨15, by omega, by omega⟩

theorem usedTotal_ne_zero {lens : List Nat} (h : ∀ l ∈ lens, l ≤ 15) {l : Nat} (hmem : l ∈ lens) (hl : l ≠ 0) :
    usedTotal lens ≠ 0 := by
  intro hzero
  rw [usedTotal, List.sum_eq_zero_iff] at hzero
  have hcount := hzero (lenCount lens l) (List.mem_map_of_mem (List.mem_range.mpr (by have := h l hmem; omega)))
  rw [lenCount, if_neg hl, List.count_eq_zero] at hcount
  exact hcount hmem

/-- A complete set, one whose Kraft sum is 1, is accepted (R163 to R166). -/
theorem build_of_complete {lens : List Nat} (h : ∀ l ∈ lens, l ≤ 15) (hk : kraftSum lens = 2 ^ 15) (root : Nat) (kind : Kind) :
    build lens root kind = .ok (tableOf lens root kind) := by
  have hused : ∃ l ∈ lens, l ≠ 0 := by
    by_contra hnone
    push Not at hnone
    rw [kraftSum, List.map_congr_left (g := fun _ => 0) (fun l hl => if_pos (hnone l hl))] at hk
    simp at hk
  obtain ⟨l, hmem, hl⟩ := hused
  have hover : overSubscribed lens = false := by
    rw [← Bool.not_eq_true, overSubscribed_iff h]
    omega
  have hforb : forbiddenIncomplete lens = false := by
    simp [forbiddenIncomplete, leftAt_fifteen h, hk]
  simp [build, usedTotal_ne_zero h hmem hl, hover, hforb]

/-! ### The code of a symbol -/

/-- The canonical code of symbol `s`: the first code of its length, counted on by the earlier symbols of that length (R122). -/
def codeOf (lens : List Nat) (s : Nat) : Nat := firstCode lens (lens.getD s 0) + (lens.take s).count (lens.getD s 0)

/-- `assignCodes` gives every used symbol the next code of its length, counted on by the earlier symbols of that length. -/
theorem mem_assignCodes {lens : List Nat} {s : Nat} {next : List Nat} (h : ∀ l ∈ lens, l < next.length) (u : Used) :
    u ∈ assignCodes lens s next ↔ ∃ k, lens[k]? = some u.len ∧ u.len ≠ 0 ∧ u.sym = s + k ∧
      u.rcode = rev (next.getD u.len 0 + (lens.take k).count u.len) u.len := by
  induction lens generalizing s next with
  | nil => simp [assignCodes]
  | cons l lens ih =>
    have hadvance (next' : List Nat) (k : Nat) (hnext : next'.getD u.len 0 = next.getD u.len 0 + if l = u.len then 1 else 0) :
        next'.getD u.len 0 + (lens.take k).count u.len = next.getD u.len 0 + ((l :: lens).take (k + 1)).count u.len := by
      rw [hnext, List.take_succ_cons, List.count_cons]
      simp only [beq_iff_eq]
      omega
    have htail : ∀ m ∈ lens, m < next.length := fun m hm => h m (List.mem_cons_of_mem _ hm)
    rw [assignCodes, ← Nat.or_exists_add_one]
    split
    · next hl =>
      rw [ih htail]
      constructor
      · rintro ⟨k, hk, hne, hsym, hcode⟩
        exact .inr ⟨k, by simpa using hk, hne, by omega, by rw [hcode, hadvance next k (by simp [hl, hne.symm])]⟩
      · rintro (⟨hk, hne, -⟩ | ⟨k, hk, hne, hsym, hcode⟩)
        · exact absurd (by simpa using hk.symm) (hl ▸ hne)
        · exact ⟨k, by simpa using hk, hne, by omega, by rw [hcode, hadvance next k (by simp [hl, hne.symm])]⟩
    · next hl =>
      have hnext : (next.set l (next.getD l 0 + 1)).getD u.len 0 = next.getD u.len 0 + if l = u.len then 1 else 0 := by
        by_cases heq : l = u.len
        · subst heq
          simp [List.getD, h u.len List.mem_cons_self]
        · simp [List.getD, List.getElem?_set_ne heq, heq]
      rw [List.mem_cons, ih (by simpa using htail)]
      refine or_congr ?_ (exists_congr fun k => ?_)
      · constructor
        · rintro rfl
          exact ⟨rfl, hl, rfl, by simp⟩
        · rintro ⟨hk, -, hsym, hcode⟩
          obtain ⟨sym, len, rcode⟩ := u
          obtain rfl : l = len := by simpa using hk
          simpa using And.intro hsym hcode
      · rw [hadvance _ k hnext, List.getElem?_cons_succ, Nat.add_right_comm, Nat.add_assoc]

theorem codeOf_eq {lens : List Nat} {s l : Nat} (hs : lens[s]? = some l) :
    codeOf lens s = firstCode lens l + (lens.take s).count l := by
  simp [codeOf, List.getD, hs]

/-- The used symbols, each with its length and its code (R167). -/
theorem mem_usedCodes {lens : List Nat} (h : ∀ l ∈ lens, l ≤ 15) (u : Used) :
    u ∈ usedCodes lens ↔ lens[u.sym]? = some u.len ∧ u.len ≠ 0 ∧ u.rcode = rev (codeOf lens u.sym) u.len := by
  have hfirst {k : Nat} (hk : lens[k]? = some u.len) :
      ((List.range 16).map (firstCode lens)).getD u.len 0 + (lens.take k).count u.len = codeOf lens k := by
    have hlt : u.len < 16 := Nat.lt_succ_of_le (h _ (List.mem_of_getElem? hk))
    simp [codeOf_eq hk, List.getD, hlt]
  rw [usedCodes, mem_assignCodes (by simpa [Nat.lt_succ_iff] using h)]
  constructor
  · rintro ⟨k, hk, hne, hsym, hcode⟩
    obtain rfl : u.sym = k := by omega
    exact ⟨hk, hne, by rw [hcode, hfirst hk]⟩
  · rintro ⟨hk, hne, hcode⟩
    exact ⟨u.sym, hk, hne, by omega, by rw [hcode, hfirst hk]⟩

/-- A symbol has one code. -/
theorem usedCodes_sym_inj {lens : List Nat} (h : ∀ l ∈ lens, l ≤ 15) {u v : Used} (hu : u ∈ usedCodes lens)
    (hv : v ∈ usedCodes lens) (hsym : u.sym = v.sym) : u = v := by
  obtain ⟨s, l, c⟩ := u
  obtain ⟨t, m, d⟩ := v
  obtain rfl : s = t := hsym
  obtain ⟨hs, -, hc⟩ := (mem_usedCodes h _).mp hu
  obtain ⟨ht, -, hd⟩ := (mem_usedCodes h _).mp hv
  obtain rfl : l = m := Option.some.inj (hs.symm.trans ht)
  exact congrArg (Used.mk s l) (hc.trans hd.symm)

theorem count_take_lt_count_take {lens : List Nat} {s t l : Nat} (hs : lens[s]? = some l) (h : s < t) :
    (lens.take s).count l < (lens.take t).count l := by
  have hone : (lens.take (s + 1)).count l = (lens.take s).count l + 1 := by
    simp [List.take_add_one, hs, List.count_append]
  have hle : (lens.take (s + 1)).count l ≤ (lens.take t).count l := (List.take_prefix_take_left h).sublist.count_le l
  omega

section Codes
variable {lens : List Nat} {s l : Nat} (hs : lens[s]? = some l) (hl : l ≠ 0)
include hs hl

theorem codeOf_lt_firstCode_add_lenCount : codeOf lens s < firstCode lens l + lenCount lens l := by
  have hlt : s < lens.length := (List.getElem?_eq_some_iff.mp hs).1
  have hcount := count_take_lt_count_take hs hlt
  rw [List.take_length] at hcount
  rw [codeOf_eq hs, lenCount, if_neg hl]
  omega

/-- Every code of a set that is not over-subscribed has the bits for it. -/
theorem codeOf_lt_two_pow (hb : l ≤ 15) (hover : overSubscribed lens = false) : codeOf lens s < 2 ^ l := by
  have hcode := codeOf_lt_firstCode_add_lenCount hs hl
  have hleft : ¬leftAt lens l < 0 := by
    simp only [overSubscribed, List.any_eq_false, List.mem_range, decide_eq_true_eq] at hover
    exact hover l (by omega)
  rw [leftAt_eq] at hleft
  zify
  omega

end Codes

/-- The codes of one length, continued to a longer one, end before the first code of that length. -/
theorem firstCode_add_lenCount_mul_le (lens : List Nat) {b c : Nat} (h : b < c) :
    (firstCode lens b + lenCount lens b) * 2 ^ (c - b) ≤ firstCode lens c := by
  induction c, h using Nat.le_induction with
  | base => simp [firstCode, Nat.mul_comm]
  | succ c hbc ih =>
    rw [Nat.succ_sub (by omega), Nat.pow_succ, firstCode]
    linarith

/-- No code begins another one (R122). -/
theorem codeOf_prefix_free {lens : List Nat} {s t l m : Nat} (hs : lens[s]? = some l) (ht : lens[t]? = some m) (hl : l ≠ 0)
    (hlm : l ≤ m) (h : codeOf lens t / 2 ^ (m - l) = codeOf lens s) : s = t := by
  rcases Nat.eq_or_lt_of_le hlm with rfl | hlt
  · have hcount : (lens.take t).count l = (lens.take s).count l := by
      simpa [codeOf_eq hs, codeOf_eq ht] using h
    rcases Nat.lt_trichotomy s t with hst | hst | hst
    · exact absurd (count_take_lt_count_take hs hst) (by omega)
    · exact hst
    · exact absurd (count_take_lt_count_take ht hst) (by omega)
  · exfalso
    have hnext : (codeOf lens s + 1) * 2 ^ (m - l) ≤ codeOf lens t :=
      calc (codeOf lens s + 1) * 2 ^ (m - l)
          ≤ (firstCode lens l + lenCount lens l) * 2 ^ (m - l) :=
            Nat.mul_le_mul_right _ (codeOf_lt_firstCode_add_lenCount hs hl)
        _ ≤ firstCode lens m := firstCode_add_lenCount_mul_le lens hlt
        _ ≤ codeOf lens t := by
            rw [codeOf_eq ht]
            exact Nat.le_add_right _ _
    rw [← Nat.le_div_iff_mul_le (Nat.two_pow_pos _)] at hnext
    omega

/-- No used symbol's code begins another's (R122), as table indices. -/
theorem usedCodes_prefix_free {lens : List Nat} (h : ∀ l ∈ lens, l ≤ 15) (hover : overSubscribed lens = false) {u v : Used}
    (hu : u ∈ usedCodes lens) (hv : v ∈ usedCodes lens) (hlen : u.len ≤ v.len) (hcode : v.rcode % 2 ^ u.len = u.rcode) : u = v := by
  obtain ⟨hus, hu0, huc⟩ := (mem_usedCodes h u).mp hu
  obtain ⟨hvs, hv0, hvc⟩ := (mem_usedCodes h v).mp hv
  have hult := codeOf_lt_two_pow hus hu0 (h _ (List.mem_of_getElem? hus)) hover
  have hvlt := codeOf_lt_two_pow hvs hv0 (h _ (List.mem_of_getElem? hvs)) hover
  have hdiv : codeOf lens v.sym / 2 ^ (v.len - u.len) < 2 ^ u.len := by
    rwa [Nat.div_lt_iff_lt_mul (Nat.two_pow_pos _), ← Nat.pow_add, Nat.add_sub_cancel' hlen]
  rw [huc, hvc, rev_mod_two_pow _ hlen] at hcode
  have hsym := codeOf_prefix_free hus hvs hu0 hlen (rev_inj hdiv hult hcode)
  exact usedCodes_sym_inj h hu hv hsym

/-! ### The entry at a code -/

/-- The root level has the entry of a symbol at every index that begins with its code (R169). -/
theorem levelEntry_of_mem {lens : List Nat} (h : ∀ l ∈ lens, l ≤ 15) (hover : overSubscribed lens = false) (kind : Kind)
    {u : Used} (hu : u ∈ usedCodes lens) {i : Nat} (hi : i % 2 ^ u.len = u.rcode) :
    levelEntry kind (usedCodes lens) 0 i = symbolEntry kind u.sym u.len := by
  have hfind : (usedCodes lens).find? (fun v => i % 2 ^ (v.len - 0) = v.rcode / 2 ^ 0) = some u := by
    cases hf : (usedCodes lens).find? (fun v => i % 2 ^ (v.len - 0) = v.rcode / 2 ^ 0) with
    | none =>
      rw [List.find?_eq_none] at hf
      exact absurd hi (by simpa using hf u hu)
    | some v =>
      have hv := List.mem_of_find?_eq_some hf
      have hiv : i % 2 ^ v.len = v.rcode := by simpa using List.find?_some hf
      rcases Nat.le_total u.len v.len with hle | hle
      · rw [usedCodes_prefix_free h hover hu hv hle (by rw [← hiv, Nat.mod_mod_of_dvd _ (Nat.pow_dvd_pow 2 hle), hi])]
      · rw [usedCodes_prefix_free h hover hv hu hle (by rw [← hi, Nat.mod_mod_of_dvd _ (Nat.pow_dvd_pow 2 hle), hiv])]
  rw [levelEntry, hfind]
  simp

/-- A set with no code longer than the root has no sub-tables (R170). -/
theorem tableOf_eq_root {lens : List Nat} {root : Nat} (hr : root ≤ 15) (h : ∀ l ∈ lens, l ≤ root) (kind : Kind) :
    tableOf lens root kind = (List.range (2 ^ root)).map (levelEntry kind (usedCodes lens) 0) := by
  have hshort : ∀ u ∈ usedCodes lens, u.len ≤ root := fun u hu =>
    h _ (List.mem_of_getElem? ((mem_usedCodes (fun l hl => (h l hl).trans hr) u).mp hu).1)
  have hlong : (usedCodes lens).filter (fun u => root < u.len) = [] := by simpa using hshort
  have hall : (usedCodes lens).filter (fun u => u.len ≤ root) = usedCodes lens := by simpa using hshort
  have hsubs : subTables (usedCodes lens) root = [] := by simp [subTables, hlong, placeSubs]
  have hroot : rootEntry kind (usedCodes lens) [] root = levelEntry kind (usedCodes lens) 0 := by
    funext i
    simp [rootEntry, hall]
  simp [tableOf, hsubs, hroot]

theorem length_tableOf {lens : List Nat} {root : Nat} (hr : root ≤ 15) (h : ∀ l ∈ lens, l ≤ root) (kind : Kind) :
    (tableOf lens root kind).length = 2 ^ root := by
  simp [tableOf_eq_root hr h]

/-- A table whose codes all fit the root has every symbol's entry at its code. -/
theorem tableOf_getElem?_rev_codeOf {lens : List Nat} {root : Nat} (hr : root ≤ 15) (h : ∀ l ∈ lens, l ≤ root)
    (hover : overSubscribed lens = false) (kind : Kind) {s l : Nat} (hs : lens[s]? = some l) (hl : l ≠ 0) :
    (tableOf lens root kind)[rev (codeOf lens s) l]? = some (symbolEntry kind s l) := by
  have h15 : ∀ l ∈ lens, l ≤ 15 := fun l hl => (h l hl).trans hr
  have hmem : (⟨s, l, rev (codeOf lens s) l⟩ : Used) ∈ usedCodes lens := (mem_usedCodes h15 _).mpr ⟨hs, hl, rfl⟩
  have hlt : rev (codeOf lens s) l < 2 ^ root :=
    (rev_lt _ _).trans_le (Nat.pow_le_pow_right two_pos (h l (List.mem_of_getElem? hs)))
  have hentry := levelEntry_of_mem h15 hover kind hmem (Nat.mod_eq_of_lt (rev_lt _ _))
  simp [tableOf_eq_root hr h, hlt, hentry]

/-- A complete set's table has a symbol's entry at its code, whose value is the space of the shorter codes and the earlier symbols
of its length (R122, R169). -/
theorem tableOf_getElem?_of_complete {lens : List Nat} {root : Nat} (hr : root ≤ 15) (h : ∀ l ∈ lens, l ≤ root)
    (hk : kraftSum lens = 2 ^ 15) (kind : Kind) {s l c : Nat} (hs : lens[s]? = some l) (hl : l ≠ 0)
    (hc : spaceBelow lens l + (lens.take s).count l = c) : (tableOf lens root kind)[rev c l]? = some (symbolEntry kind s l) := by
  have hover : overSubscribed lens = false := by
    rw [← Bool.not_eq_true, overSubscribed_iff (fun l hl => (h l hl).trans hr), hk]
    exact lt_irrefl _
  rw [← hc, ← firstCode_eq_spaceBelow, ← codeOf_eq hs]
  exact tableOf_getElem?_rev_codeOf hr h hover kind hs hl

/-! ### The entry of a symbol, by the alphabet's part (R168) -/

theorem symbolEntry_literal {s : Nat} (h : s < 256) (b : Nat) :
    symbolEntry .ll s b = ⟨0x00, BitVec.ofNat 4 b, BitVec.ofNat 16 s⟩ := by
  simp [symbolEntry, h]

theorem symbolEntry_endOfBlock (b : Nat) : symbolEntry .ll 256 b = ⟨0x20, BitVec.ofNat 4 b, 0⟩ := by
  simp [symbolEntry]

theorem symbolEntry_length {s b : Nat} {row : Nat × Nat} (h : 257 ≤ s) (hrow : lengthTable[s - 257]? = some row) :
    symbolEntry .ll s b = ⟨BitVec.ofNat 8 (0x10 + row.2), BitVec.ofNat 4 b, BitVec.ofNat 16 row.1⟩ := by
  simp [symbolEntry, hrow, show ¬s < 256 by omega, show s ≠ 256 by omega]

/-- The length table ends with symbol 285. -/
theorem symbolEntry_llReserved {s b : Nat} (h : 286 ≤ s) : symbolEntry .ll s b = ⟨0x40, BitVec.ofNat 4 b, 0⟩ := by
  have hnone : lengthTable[s - 257]? = none := List.getElem?_eq_none (by simp [lengthTable]; omega)
  simp [symbolEntry, hnone, show ¬s < 256 by omega, show s ≠ 256 by omega]

theorem symbolEntry_distance {s b : Nat} {row : Nat × Nat} (hrow : distanceTable[s]? = some row) :
    symbolEntry .d s b = ⟨BitVec.ofNat 8 (0x10 + row.2), BitVec.ofNat 4 b, BitVec.ofNat 16 row.1⟩ := by
  simp [symbolEntry, hrow]

/-- The distance table ends with symbol 29. -/
theorem symbolEntry_dReserved {s b : Nat} (h : 30 ≤ s) : symbolEntry .d s b = ⟨0x40, BitVec.ofNat 4 b, 0⟩ := by
  have hnone : distanceTable[s]? = none := List.getElem?_eq_none (by simpa [distanceTable] using h)
  simp [symbolEntry, hnone]

end Sys2Proof.Machine
end

section
/-! SUPPORT. The fixed code of R121 and its tables (R173). -/

namespace Sys2Proof.Machine

/-! ### The lengths -/

theorem fixedLlLens_le : ∀ l ∈ fixedLlLens, l ≤ 9 := by
  intro l h
  simp only [fixedLlLens, List.mem_append, List.mem_replicate] at h
  omega

theorem fixedDLens_le : ∀ l ∈ List.replicate 32 5, l ≤ 5 := fun _ h => (List.eq_of_mem_replicate h).le

theorem kraftSum_fixedLlLens : kraftSum fixedLlLens = 2 ^ 15 := by
  simp [kraftSum, fixedLlLens, -List.reduceReplicate]

theorem kraftSum_fixedDLens : kraftSum (List.replicate 32 5) = 2 ^ 15 := by
  simp [kraftSum, -List.reduceReplicate]

theorem fixedLlLens_getElem? {s : Nat} (h : s < 288) :
    fixedLlLens[s]? = some (if s < 144 then 8 else if s < 256 then 9 else if s < 280 then 7 else 8) := by
  simp only [fixedLlLens, List.getElem?_append, List.getElem?_replicate, List.length_append, List.length_replicate]
  grind

/-- How many of the first `s` symbols have length `l`, run by run. -/
theorem count_take_fixedLlLens (s l : Nat) : (fixedLlLens.take s).count l =
    (if 8 = l then min s 144 else 0) + (if 9 = l then min (s - 144) 112 else 0) +
      (if 7 = l then min (s - 256) 24 else 0) + (if 8 = l then min (s - 280) 8 else 0) := by
  simp [fixedLlLens, List.take_append, List.count_append, List.count_replicate, List.take_replicate, Nat.sub_sub,
    Nat.add_assoc, -List.reduceReplicate]

/-- Where the codes of each length start (R121): 0, 00110000, 110010000. -/
theorem spaceBelow_fixedLlLens :
    spaceBelow fixedLlLens 7 = 0 ∧ spaceBelow fixedLlLens 8 = 0x30 ∧ spaceBelow fixedLlLens 9 = 0x190 := by
  simp [spaceBelow, fixedLlLens, -List.reduceReplicate]

/-! ### The tables -/

theorem build_fixedLlLens : build fixedLlLens 9 .ll = .ok fixedLt :=
  build_of_complete (fun l hl => (fixedLlLens_le l hl).trans (by decide)) kraftSum_fixedLlLens _ _

theorem build_fixedDLens : build (List.replicate 32 5) 5 .d = .ok fixedDt :=
  build_of_complete (fun l hl => (fixedDLens_le l hl).trans (by decide)) kraftSum_fixedDLens _ _

theorem length_fixedLt : fixedLt.length = 512 := length_tableOf (by decide) fixedLlLens_le .ll

theorem length_fixedDt : fixedDt.length = 32 := length_tableOf (by decide) fixedDLens_le .d

/-- The fixed literal/length table has a symbol's entry at its code. -/
theorem fixedLt_getElem? {s l c : Nat} (hs : s < 288)
    (hl : l = if s < 144 then 8 else if s < 256 then 9 else if s < 280 then 7 else 8)
    (hc : spaceBelow fixedLlLens l + (fixedLlLens.take s).count l = c) : fixedLt[rev c l]? = some (symbolEntry .ll s l) :=
  tableOf_getElem?_of_complete (by decide) fixedLlLens_le kraftSum_fixedLlLens .ll (hl ▸ fixedLlLens_getElem? hs)
    (by split_ifs at hl <;> omega) hc

/-- R121: 0 to 143 have the 8-bit codes from 00110000 on. -/
theorem fixedLt_literal8 {s : Nat} (h : s < 144) : fixedLt[rev (0x30 + s) 8]? = some (symbolEntry .ll s 8) := by
  refine fixedLt_getElem? (by omega) (by grind) ?_
  rw [spaceBelow_fixedLlLens.2.1, count_take_fixedLlLens]
  grind

/-- R121: 144 to 255 have the 9-bit codes from 110010000 on. -/
theorem fixedLt_literal9 {s : Nat} (h : s < 112) : fixedLt[rev (0x190 + s) 9]? = some (symbolEntry .ll (144 + s) 9) := by
  refine fixedLt_getElem? (by omega) (by grind) ?_
  rw [spaceBelow_fixedLlLens.2.2, count_take_fixedLlLens]
  grind

/-- R121: 256 to 279 have the 7-bit codes from 0000000 on. -/
theorem fixedLt_length7 {s : Nat} (hlo : 256 ≤ s) (hhi : s < 280) : fixedLt[rev (s - 256) 7]? = some (symbolEntry .ll s 7) := by
  refine fixedLt_getElem? (by omega) (by grind) ?_
  rw [spaceBelow_fixedLlLens.1, count_take_fixedLlLens]
  grind

/-- R121: 280 to 287 have the 8-bit codes from 11000000 on. -/
theorem fixedLt_length8 {s : Nat} (hlo : 280 ≤ s) (hhi : s < 288) :
    fixedLt[rev (0xC0 + (s - 280)) 8]? = some (symbolEntry .ll s 8) := by
  refine fixedLt_getElem? hhi (by grind) ?_
  rw [spaceBelow_fixedLlLens.2.1, count_take_fixedLlLens]
  grind

/-- R121: a distance symbol's code is its number in 5 bits. -/
theorem fixedDt_getElem? {s : Nat} (h : s < 32) : fixedDt[rev s 5]? = some (symbolEntry .d s 5) := by
  refine tableOf_getElem?_of_complete (by decide) fixedDLens_le kraftSum_fixedDLens .d ?_ (by decide) ?_
  · simp [h, -List.reduceReplicate]
  · simp [spaceBelow, List.take_replicate, h.le, -List.reduceReplicate]

/-- Settles O14: both sets are complete, their codes are canonical, and a table has every symbol's entry at its code; which entry
that is, is read off the tables of R117 and R118. -/
theorem fixedTablesDecodeFixedCodes : Obligations.FixedTablesDecodeFixedCodes := by
  unfold Obligations.FixedTablesDecodeFixedCodes
  refine ⟨build_fixedLlLens, build_fixedDLens, kraftSum_fixedLlLens, kraftSum_fixedDLens, length_fixedLt, length_fixedDt,
    ?literal8, ?literal9, ?endOfBlock, ?length7, ?length8, ?reserved, ?distance, ?reservedDistance⟩
  case literal8 =>
    intro s hs
    rw [fixedLt_literal8 hs, symbolEntry_literal (by omega)]
    rfl
  case literal9 =>
    intro s hs
    rw [fixedLt_literal9 hs, symbolEntry_literal (by omega)]
    rfl
  case endOfBlock =>
    rw [fixedLt_length7 (s := 256) (by decide) (by decide), symbolEntry_endOfBlock]
    rfl
  case length7 =>
    intro r hr
    have hrow : 257 ≤ r.1 ∧ r.1 < 280 ∧ lengthTable[r.1 - 257]? = some r.2 := by
      revert r
      decide
    obtain ⟨hlo, hhi, hrow⟩ := hrow
    rw [fixedLt_length7 (by omega) hhi, symbolEntry_length hlo hrow]
    rfl
  case length8 =>
    intro r hr
    have hrow : 280 ≤ r.1 ∧ r.1 < 288 ∧ lengthTable[r.1 - 257]? = some r.2 := by
      revert r
      decide
    obtain ⟨hlo, hhi, hrow⟩ := hrow
    rw [fixedLt_length8 hlo hhi, symbolEntry_length (by omega) hrow]
    rfl
  case reserved =>
    intro s hs
    have hrange : 286 ≤ s ∧ s < 288 := by
      revert s
      decide
    rw [fixedLt_length8 (by omega) hrange.2, symbolEntry_llReserved hrange.1]
    rfl
  case distance =>
    intro r hr
    have hrow : r.1 < 32 ∧ distanceTable[r.1]? = some r.2 := by
      revert r
      decide
    rw [fixedDt_getElem? hrow.1, symbolEntry_distance hrow.2]
    rfl
  case reservedDistance =>
    intro s hs
    have hrange : 30 ≤ s ∧ s < 32 := by
      revert s
      decide
    rw [fixedDt_getElem? hrange.2, symbolEntry_dReserved hrange.1]
    rfl

end Sys2Proof.Machine
end

section
/-! SUPPORT. What `consume` and `align` leave in the accumulator, as numbers (R143, R144, R146). -/

namespace Sys2Proof.Machine

theorem consume_bitb_toNat (n : Nat) (s : State) : (consume n s).bitb.toNat = s.bitb.toNat / 2 ^ n := by
  rw [consume_bitb, BitVec.toNat_ushiftRight, Nat.shiftRight_eq_div_pow]

/-- `BITK` does not wrap when no more bits are dropped than are held. -/
theorem consume_bitk_toNat {n : Nat} {s : State} (h : n ≤ s.bitk.toNat) : (consume n s).bitk.toNat = s.bitk.toNat - n := by
  have hn : (BitVec.ofNat 6 n).toNat = n := by
    rw [BitVec.toNat_ofNat]
    exact Nat.mod_eq_of_lt (h.trans_lt s.bitk.isLt)
  rw [consume_bitk, BitVec.toNat_sub_of_le (by rwa [BitVec.le_def, hn]), hn]

/-- `consume` writes the accumulator and its count only, and both hold the numbers of R143. -/
theorem consume_eq {n : Nat} {s : State} (h : n ≤ s.bitk.toNat) :
    consume n s =
      { s with bitb := BitVec.ofNat 32 (s.bitb.toNat / 2 ^ n), bitk := BitVec.ofNat 6 (s.bitk.toNat - n) } := by
  rw [← consume_bitb_toNat, ← consume_bitk_toNat h, BitVec.ofNat_toNat, BitVec.ofNat_toNat, BitVec.setWidth_eq,
    BitVec.setWidth_eq]
  rfl

/-- R65 (a) is kept: what is left of an accumulator below `2 ^ BITK` is below `2 ^ (BITK - n)`. -/
theorem consume_noStale {n : Nat} {s : State} (hstale : s.bitb.toNat < 2 ^ s.bitk.toNat) (h : n ≤ s.bitk.toNat) :
    (consume n s).bitb.toNat < 2 ^ (s.bitk.toNat - n) := by
  rw [consume_bitb_toNat]
  refine Nat.div_lt_of_lt_mul ?_
  rwa [← pow_add, Nat.add_sub_cancel' h]

theorem peek_eq_mod (m : Nat) (s : State) : peek m s = s.bitb.toNat % 2 ^ m := by
  rw [peek, fieldAt, pow_zero, Nat.div_one]

/-- The bits left after `align` are those of whole bytes. -/
theorem alignBits_bitk_toNat (s : State) : (alignBits s).bitk.toNat = s.bitk.toNat - s.bitk.toNat % 8 :=
  consume_bitk_toNat (Nat.mod_le _ _)

/-- Settles O9: the shift is the division by `2 ^ n`, and the subtraction does not wrap below the count. -/
theorem consumeDropsLowBits : Obligations.ConsumeDropsLowBits := by
  unfold Obligations.ConsumeDropsLowBits
  constructor
  · intro n s hstale _ hn
    refine ⟨consume_eq hn, consume_noStale hstale hn, fun m _ => ?_⟩
    rw [peek_eq_mod, consume_bitb_toNat]
  · intro s _
    have hk := alignBits_bitk_toNat s
    exact ⟨rfl, by omega, by omega⟩

end Sys2Proof.Machine
end

section
/-! SUPPORT. How `build` judges a length set: the used symbols counted, and their Kraft sum (R162 to R166). -/

namespace Sys2Proof.Machine

/-! ### The used symbols -/

/-- The counts of the lengths 1 to 15 count every used symbol once (R162). -/
theorem usedTotal_cons {l : Nat} (hl : l ≤ 15) (lens : List Nat) :
    usedTotal (l :: lens) = (if l = 0 then 0 else 1) + usedTotal lens := by
  have hone : ∀ l ≤ 15, ((List.range 16).map fun b => if l = b ∧ b ≠ 0 then 1 else 0).sum = if l = 0 then 0 else 1 := by decide
  rw [usedTotal, funext (lenCount_cons l lens), List.sum_map_add, hone l hl, usedTotal]

theorem usedTotal_eq {lens : List Nat} (h : ∀ l ∈ lens, l ≤ 15) : usedTotal lens = (lens.filter (· ≠ 0)).length := by
  induction lens with
  | nil => decide
  | cons l lens ih =>
    rw [usedTotal_cons (h l List.mem_cons_self), ih fun m hm => h m (List.mem_cons_of_mem _ hm)]
    by_cases hl : l = 0
    · simp [hl]
    · simp [hl, Nat.add_comm]

/-- Unused symbols take nothing of the bit space (R163). -/
theorem kraftSum_eq_sum_filter (lens : List Nat) : kraftSum lens = ((lens.filter (· ≠ 0)).map fun l => 2 ^ (15 - l)).sum := by
  induction lens with
  | nil => rfl
  | cons l lens ih =>
    by_cases hl : l = 0 <;> simpa [kraftSum, hl] using ih

/-- The single 1-bit code takes half of the bit space (R164). -/
theorem kraftSum_of_oneBitCode {lens : List Nat} (h : lens.filter (· ≠ 0) = [1]) : kraftSum lens = 2 ^ 14 := by
  rw [kraftSum_eq_sum_filter, h]
  rfl

/-- R164's test by counts says that the used lengths are one 1-bit code. -/
theorem oneBitCode_iff {lens : List Nat} (h : ∀ l ∈ lens, l ≤ 15) :
    usedTotal lens = 1 ∧ lenCount lens 1 = 1 ↔ lens.filter (· ≠ 0) = [1] := by
  have hcount : lenCount lens 1 = (lens.filter (· ≠ 0)).count 1 := (List.count_filter (by decide)).symm
  rw [usedTotal_eq h, hcount]
  constructor
  · rintro ⟨hlen, hone⟩
    obtain ⟨a, ha⟩ := List.length_eq_one_iff.mp hlen
    rw [ha] at hone ⊢
    have hmem : 1 ∈ [a] := List.count_pos_iff.mp (by omega)
    rw [List.mem_singleton.mp hmem]
  · intro hsingle
    rw [hsingle]
    decide

/-- The sets refused as incomplete: a Kraft sum below 1, and not the single 1-bit code (R164). -/
theorem forbiddenIncomplete_iff {lens : List Nat} (h : ∀ l ∈ lens, l ≤ 15) :
    forbiddenIncomplete lens = true ↔ kraftSum lens < 2 ^ 15 ∧ lens.filter (· ≠ 0) ≠ [1] := by
  have hleft : 0 < leftAt lens 15 ↔ kraftSum lens < 2 ^ 15 := by
    rw [leftAt_fifteen h]
    omega
  rw [ne_eq, ← oneBitCode_iff h, ← hleft]
  simp [forbiddenIncomplete, imp_iff_not_or]

/-! ### The four results -/

theorem build_of_unused {lens : List Nat} (h : ∀ l ∈ lens, l = 0) (root : Nat) (kind : Kind) :
    build lens root kind = .empty (List.replicate (2 ^ root) Entry.invalid) := by
  have htotal : usedTotal lens = 0 := by
    rw [usedTotal_eq fun l hl => (h l hl).le.trans (Nat.zero_le 15)]
    simpa using h
  rw [build, if_pos htotal]

section Used
variable {lens : List Nat} (h : ∀ l ∈ lens, l ≤ 15) (hused : ∃ l ∈ lens, l ≠ 0) (root : Nat) (kind : Kind)
include h hused

/-- A set with a used symbol is judged by its Kraft sum, the single 1-bit code being excepted (R163 to R166). -/
theorem build_of_used : build lens root kind =
    if 2 ^ 15 < kraftSum lens then .over
    else if kraftSum lens < 2 ^ 15 ∧ lens.filter (· ≠ 0) ≠ [1] then .incomplete
    else .ok (tableOf lens root kind) := by
  obtain ⟨l, hmem, hl⟩ := hused
  simp only [build, usedTotal_ne_zero h hmem hl, if_false, overSubscribed_iff h, forbiddenIncomplete_iff h]

theorem build_of_over (hk : 2 ^ 15 < kraftSum lens) : build lens root kind = .over := by
  rw [build_of_used h hused, if_pos hk]

theorem build_of_incomplete (hk : kraftSum lens < 2 ^ 15) (hsingle : lens.filter (· ≠ 0) ≠ [1]) :
    build lens root kind = .incomplete := by
  rw [build_of_used h hused, if_neg hk.not_gt, if_pos ⟨hk, hsingle⟩]

theorem build_of_oneBitCode (hsingle : lens.filter (· ≠ 0) = [1]) : build lens root kind = .ok (tableOf lens root kind) := by
  have hk : ¬2 ^ 15 < kraftSum lens := by
    rw [kraftSum_of_oneBitCode hsingle]
    decide
  rw [build_of_used h hused, if_neg hk, if_neg fun hforb => hforb.2 hsingle]

end Used

/-- A table holds its root level (R166). -/
theorem two_pow_le_length_tableOf (lens : List Nat) (root : Nat) (kind : Kind) : 2 ^ root ≤ (tableOf lens root kind).length := by
  simp [tableOf]

/-- Settles O12: without a used symbol `empty`; else the Kraft sum decides, and a table has at least its root level. -/
theorem buildJudgesByKraftSum : Obligations.BuildJudgesByKraftSum := by
  unfold Obligations.BuildJudgesByKraftSum
  intro lens root kind h
  refine ⟨fun hunused => build_of_unused hunused root kind, fun hused =>
    ⟨build_of_over h hused root kind, build_of_incomplete h hused root kind, fun haccepted =>
      ⟨tableOf lens root kind, ?_, two_pow_le_length_tableOf lens root kind⟩⟩⟩
  rcases haccepted with hcomplete | hsingle
  · exact build_of_complete h hcomplete root kind
  · exact build_of_oneBitCode h hused root kind hsingle

end Sys2Proof.Machine
end

section
/-! SUPPORT. A micro-step that reads a plain field: its fetch, and the fields the decoder cuts from the accumulator (R9, R148). -/

namespace Sys2Proof.Machine

/-- While STEP runs, the element that the state selects is fetched, decoded and executed (R9, R290). -/
theorem step_of_element {s : State} {slot : Slot} (hbusy : s.busy = true) (hselect : select s = .element slot) :
    step s = settle (fetch slot s) (fun e t => exec (decode slot e t.bitb) t) := by
  rw [step, if_pos hbusy, microStep, hselect]

/-- Fetching a plain field is `need_bits` alone: no table entry comes with it. -/
theorem settle_fetchBits (n : Nat) (s : State) (k : Entry → State → Host.Outcome State Fault Refusal) :
    settle (fetchBits n s) k = settle (needBits n s) (fun _ t => k Entry.invalid t) := by
  rw [fetchBits]
  cases needBits n s <;> rfl

theorem step_of_field {s : State} {slot : Slot} {n : Nat} (hbusy : s.busy = true) (hselect : select s = .element slot)
    (hfetch : fetch slot s = fetchBits n s) :
    step s = settle (needBits n s) (fun _ t => exec (decode slot Entry.invalid t.bitb) t) := by
  rw [step_of_element hbusy hselect, hfetch, settle_fetchBits]

theorem select_of_blocks {s : State} (hmode : s.mode = .blocks) : select s = selectBlock s := by
  rw [select, hmode]

/-- A field as wide as its operand is the operand's low bits of what stands there. -/
theorem ofNat_fieldAt (v lo n : Nat) : BitVec.ofNat n (fieldAt v lo n) = BitVec.ofNat n (v / 2 ^ lo) := by
  apply BitVec.eq_of_toNat_eq
  simp [fieldAt]

end Sys2Proof.Machine
end

section
/-! SUPPORT. The block header, the stored length and the counts of a dynamic block (R191 to R196, R198). -/

namespace Sys2Proof.Machine

/-! ### The block header -/

theorem exec_blkStored (final : Bool) (s : State) :
    exec (.blkStored final) s = .next { alignBits { consume 3 s with last := final } with bmode := .lens } := rfl

theorem exec_blkFixed (final : Bool) (s : State) :
    exec (.blkFixed final) s = .next
      { consume 3 s with
        last := final, lt := fixedLt, dt := fixedDt, lbits := 9, dbits := 5, bmode := .codes, cmode := .start } := rfl

theorem exec_blkDynamic (final : Bool) (s : State) :
    exec (.blkDynamic final) s = .next { consume 3 s with last := final, bmode := .table } := rfl

theorem exec_blkReserved (final : Bool) (s : State) :
    exec (.blkReserved final) s = .next (raise 4 { s with bmode := .bbad }) := rfl

/-- The header's low bit is the final flag and the two above it are the type (R109). -/
theorem decode_header (e : Entry) (bits : Word) :
    decode .header e bits =
      let final : Bool := bits.toNat % 2 = 1
      if bits.toNat / 2 % 4 = 3 then .blkReserved final
      else if bits.toNat / 2 % 4 = 0 then .blkStored final
      else if bits.toNat / 2 % 4 = 1 then .blkFixed final
      else .blkDynamic final := by
  have hfinal : fieldAt bits.toNat 0 1 = bits.toNat % 2 := by simp [fieldAt]
  have htype : fieldAt bits.toNat 1 2 = bits.toNat / 2 % 4 := rfl
  have hrange : bits.toNat / 2 % 4 = 0 ∨ bits.toNat / 2 % 4 = 1 ∨ bits.toNat / 2 % 4 = 2 ∨ bits.toNat / 2 % 4 = 3 := by omega
  rw [decode, decodeHeader, hfinal, htype]
  obtain h | h | h | h := hrange <;> simp [h]

/-- Settles O15: each type is one row of the opcode table, and the micro-step executes the row its header decodes to. -/
theorem blockHeaderSelectsType : Obligations.BlockHeaderSelectsType := by
  unfold Obligations.BlockHeaderSelectsType
  refine ⟨fun f s => ⟨exec_blkStored f s, exec_blkFixed f s, exec_blkDynamic f s, exec_blkReserved f s⟩, ?_⟩
  intro s hbusy hmode hbmode
  have hselect : select s = .element .header := by rw [select_of_blocks hmode, selectBlock, hbmode]
  rw [step_of_field hbusy hselect rfl]
  congr 1
  funext _ t
  simp only [decode_header, apply_ite (exec · t), exec_blkReserved, exec_blkStored, exec_blkFixed, exec_blkDynamic]

/-! ### The stored length -/

/-- Two halves are complements exactly when they sum to all ones (R196). -/
theorem not_eq_iff_toNat_add {w : Nat} (x y : BitVec w) : ~~~y = x ↔ x.toNat + y.toNat = 2 ^ w - 1 := by
  have hy := y.isLt
  rw [← BitVec.toNat_inj, BitVec.toNat_not]
  omega

theorem exec_stlen_of_ne {len nlen : BitVec 16} (h : len.toNat + nlen.toNat ≠ 0xFFFF) (s : State) :
    exec (.stlen len nlen) s = .next (raise 5 { s with bmode := .bbad }) :=
  if_pos fun heq => h ((not_eq_iff_toNat_add len nlen).mp heq)

theorem exec_stlen_of_eq {len nlen : BitVec 16} (h : len.toNat + nlen.toNat = 0xFFFF) (s : State) :
    exec (.stlen len nlen) s = .next
      { consume 32 s with left := len, bmode := if len = 0 then afterBlock s else .stored } :=
  if_neg (not_not.mpr ((not_eq_iff_toNat_add len nlen).mpr h))

theorem decode_lens (e : Entry) (bits : Word) :
    decode .lens e bits = .stlen (BitVec.ofNat 16 bits.toNat) (BitVec.ofNat 16 (bits.toNat / 2 ^ 16)) := by
  rw [decode, ofNat_fieldAt, ofNat_fieldAt, pow_zero, Nat.div_one]

/-- Settles O16, by the two outcomes of the complement check. -/
theorem storedLengthIsChecked : Obligations.StoredLengthIsChecked := by
  unfold Obligations.StoredLengthIsChecked
  constructor
  · intro len nlen s
    refine ⟨fun hne => exec_stlen_of_ne hne s, fun heq => ?_⟩
    have hzero : len = 0 ↔ ¬len.toNat ≠ 0 := by
      rw [not_not, ← BitVec.toNat_inj]
      rfl
    rw [exec_stlen_of_eq heq, if_congr hzero rfl rfl, ite_not]
    rfl
  · intro s hbusy hmode hbmode
    have hselect : select s = .element .lens := by rw [select_of_blocks hmode, selectBlock, hbmode]
    rw [step_of_field hbusy hselect rfl]
    simp only [decode_lens]

/-! ### The counts of a dynamic block -/

theorem exec_counts_of_above {hlit hdist : BitVec 5} (h : 29 < hlit.toNat ∨ 29 < hdist.toNat) (hclen : BitVec 4) (s : State) :
    exec (.counts hlit hdist hclen) s = .next (raise 6 { s with bmode := .bbad }) := if_pos h

theorem exec_counts_of_le {hlit hdist : BitVec 5} (hl : hlit.toNat ≤ 29) (hd : hdist.toNat ≤ 29) (hclen : BitVec 4) (s : State) :
    exec (.counts hlit hdist hclen) s = .next
      { consume 14 s with
        nlen := BitVec.ofNat 9 (hlit.toNat + 257), ndist := BitVec.ofNat 5 (hdist.toNat + 1)
        nclen := BitVec.ofNat 5 (hclen.toNat + 4), index := 0, cllens := Vector.replicate 19 0, bmode := .btree } :=
  if_neg (by omega)

theorem decode_table (e : Entry) (bits : Word) :
    decode .table e bits =
      .counts (BitVec.ofNat 5 bits.toNat) (BitVec.ofNat 5 (bits.toNat / 2 ^ 5)) (BitVec.ofNat 4 (bits.toNat / 2 ^ 10)) := by
  rw [decode, ofNat_fieldAt, ofNat_fieldAt, ofNat_fieldAt, pow_zero, Nat.div_one]

/-- Settles O18: within the limits of the check each count fits its register. -/
theorem dynamicCountsAreChecked : Obligations.DynamicCountsAreChecked := by
  unfold Obligations.DynamicCountsAreChecked
  constructor
  · intro hlit hdist hclen s
    refine ⟨fun habove => exec_counts_of_above habove hclen s, fun hl hd =>
      ⟨_, exec_counts_of_le hl hd hclen s, ?nlen, ?ndist, ?nclen, ?cllens, rfl⟩⟩
    case nlen => exact Nat.mod_eq_of_lt (by omega)
    case ndist => exact Nat.mod_eq_of_lt (by omega)
    case nclen => exact Nat.mod_eq_of_lt (by omega)
    case cllens => exact fun i => Vector.getElem_replicate i.isLt
  · intro s hbusy hmode hbmode
    have hselect : select s = .element .table := by rw [select_of_blocks hmode, selectBlock, hbmode]
    rw [step_of_field hbusy hselect rfl]
    simp only [decode_table]

end Sys2Proof.Machine
end

section
/-! SUPPORT. The literal, length and distance symbols as rows of the tables of R117 and R118 (R223 to R225, R230). -/

namespace Sys2Proof.Machine

theorem exec_lit (n : BitVec 4) (b : Byte) (s : State) :
    exec (.lit n b) s = .next { consume n.toNat s with litv := b, cmode := .lit } := rfl

theorem exec_eob (n : BitVec 4) (s : State) : exec (.eob n) s = .next { consume n.toNat s with cmode := .wash } := rfl

/-- The instruction of the length symbol `257 + k` takes row `k` of R117 (R225). -/
theorem exec_lenInstr {k : Nat} {n : BitVec 4} {i : Instr} (h : lenInstr k n = some i) (s : State) :
    exec i s = .next (lengthSymbol k n s) := by
  unfold lenInstr at h
  split at h <;> cases h <;> rfl

/-- The instruction of the distance symbol `k` takes row `k` of R118 (R230). -/
theorem exec_distInstr {k : Nat} {n : BitVec 4} {i : Instr} (h : distInstr k n = some i) (s : State) :
    exec i s = .next (distanceSymbol k n s) := by
  unfold distInstr at h
  split at h <;> cases h <;> rfl

theorem lengthSymbol_of_row {k : Nat} {row : Nat × Nat} (h : lengthTable[k]? = some row) (n : BitVec 4) (s : State) :
    lengthSymbol k n s =
      { consume n.toNat s with lenr := BitVec.ofNat 9 row.1, ext := BitVec.ofNat 4 row.2, cmode := .lenext } := by
  simp [lengthSymbol, takeLength, List.getD, h]

theorem distanceSymbol_of_row {k : Nat} {row : Nat × Nat} (h : distanceTable[k]? = some row) (n : BitVec 4) (s : State) :
    distanceSymbol k n s =
      { consume n.toNat s with distr := BitVec.ofNat 16 row.1, ext := BitVec.ofNat 4 row.2, cmode := .distext } := by
  simp [distanceSymbol, takeDistance, List.getD, h]

/-- The symbols' instructions, each with its row of a table of bases and extra bits. -/
def symbolRows (instr : Nat → Option Instr) (table : List (Nat × Nat)) : List (Instr × Nat × Nat) :=
  (List.range table.length).filterMap fun k => Option.map₂ Prod.mk (instr k) table[k]?

theorem exists_of_mem_symbolRows {instr : Nat → Option Instr} {table : List (Nat × Nat)} {p : Instr × Nat × Nat}
    (h : p ∈ symbolRows instr table) : ∃ k, instr k = some p.1 ∧ table[k]? = some p.2 := by
  obtain ⟨k, -, hk⟩ := List.mem_filterMap.mp h
  obtain ⟨i, row, hi, hrow, rfl⟩ := Option.map₂_eq_some_iff.mp hk
  exact ⟨k, hi, hrow⟩

/-- Settles O25: the list of the statement pairs the length symbols' instructions with the rows of R117. -/
theorem literalLengthSymbolsDecode : Obligations.LiteralLengthSymbolsDecode := by
  unfold Obligations.LiteralLengthSymbolsDecode
  refine fun n s => ⟨fun b => exec_lit n b s, exec_eob n s, fun p hp => ?_⟩
  have hmem : p ∈ symbolRows (lenInstr · n) lengthTable := hp
  obtain ⟨k, hinstr, hrow⟩ := exists_of_mem_symbolRows hmem
  rw [exec_lenInstr hinstr, lengthSymbol_of_row hrow]

/-- Settles O26: the list of the statement pairs the distance symbols' instructions with the rows of R118. -/
theorem distanceSymbolsDecode : Obligations.DistanceSymbolsDecode := by
  unfold Obligations.DistanceSymbolsDecode
  intro n s p hp
  have hmem : p ∈ symbolRows (distInstr · n) distanceTable := hp
  obtain ⟨k, hinstr, hrow⟩ := exists_of_mem_symbolRows hmem
  rw [exec_distInstr hinstr, distanceSymbol_of_row hrow]

end Sys2Proof.Machine
end

section
/-! SUPPORT. The symbol engine's micro-steps that decode nothing (R221, R234 to R237). -/

namespace Sys2Proof.Machine

/-- While STEP runs, a selected micro-step that decodes nothing runs at once (R9, R290). -/
theorem step_of_micro {s : State} {m : Micro} (hbusy : s.busy = true) (hselect : select s = .micro m) : step s = runMicro m s := by
  rw [step, if_pos hbusy, microStep, hselect]

/-- In `CODES` the symbol engine chooses (R190, R220). -/
theorem select_of_codes {s : State} (hmode : s.mode = .blocks) (hbmode : s.bmode = .codes) : select s = selectCodes s := by
  rw [select_of_blocks hmode, selectBlock, hbmode]

/-- What follows an operation matters only for the answers that the operation gives. -/
theorem settle_congr {α : Type} {g : Got α} {k k' : α → State → Host.Outcome State Fault Refusal}
    (h : ∀ a t, g = .ok a t → k a t = k' a t) : settle g k = settle g k' := by
  cases g with
  | ok a t => exact h a t rfl
  | stop r t => rfl
  | fault f => rfl

/-! ### What a symbol in hand keeps while `room()` delivers (R253) -/

section Delivered
variable {s t : State} (h : Delivered s t)
include h

theorem Delivered.litv_eq : t.litv = s.litv := by rw [h]

theorem Delivered.distr_eq : t.distr = s.distr := by rw [h]

theorem Delivered.lenr_eq : t.lenr = s.lenr := by rw [h]

theorem Delivered.cmode_eq : t.cmode = s.cmode := by rw [h]

end Delivered

/-! ### The literal, and the drain at a block's end (R235, R236) -/

theorem microLit_eq (s : State) : microLit s = settle (room s) (fun _ t => .next { winWrite s.litv t with cmode := .start }) := by
  refine settle_congr fun _ t hroom => ?_
  rw [(room_ok hroom).1.litv_eq]

/-- The window is drained when nothing is pending after the flush (R208, R236). -/
theorem drain_eq (k : State → State) (s : State) :
    drain k s = if (flush s).pend = 0 then .next (k (flush s)) else .next (finish .needOut (flush s)) := by
  have hpend : 0 < (flush s).pend.toNat ↔ ¬(flush s).pend = 0 := by
    rw [Nat.pos_iff_ne_zero, ne_eq, ← BitVec.toNat_inj]
    rfl
  rw [drain, if_congr hpend rfl rfl, ite_not]

/-- Settles O31, by the four sub-states. -/
theorem symbolEngineInternalSteps : Obligations.SymbolEngineInternalSteps := by
  unfold Obligations.SymbolEngineInternalSteps
  intro s hbusy hmode hbmode
  have hstep {m : Micro} (h : selectCodes s = .micro m) : step s = runMicro m s :=
    step_of_micro hbusy ((select_of_codes hmode hbmode).trans h)
  refine ⟨fun hcmode => ?start, fun hcmode => ?lit, fun hcmode => ?wash, fun hcmode => ?blockEnd⟩ <;>
    rw [hstep (by rw [selectCodes, hcmode]), runMicro]
  case start => rfl
  case lit => exact microLit_eq s
  case wash => rw [microWash, drain_eq]
  case blockEnd => rfl

/-! ### One byte of a back-reference (R234) -/

theorem microCopy_of_tooFar {s : State} (h : s.whave.toNat < s.distr.toNat) : microCopy s = .next (raiseCodes 13 s) := if_pos h

theorem microCopy_of_done {s : State} (hdist : s.distr.toNat ≤ s.whave.toNat) (hlen : s.lenr = 0) :
    microCopy s = .next { s with cmode := .start } := by
  rw [microCopy, if_neg hdist.not_gt, if_pos hlen]

theorem copyByte_of_delivered {s t : State} (h : Delivered s t) :
    copyByte t =
      { winWrite (winRead s.distr.toNat t) t with
        lenr := s.lenr - 1, cmode := if s.lenr = 1 then .start else s.cmode } := by
  have hlast : s.lenr - 1 = 0 ↔ s.lenr = 1 := sub_eq_zero
  simp only [copyByte, winWrite_lenr, winWrite_cmode, h.distr_eq, h.lenr_eq, h.cmode_eq, hlast]

theorem microCopy_of_byte {s : State} (hdist : s.distr.toNat ≤ s.whave.toNat) (hlen : s.lenr ≠ 0) :
    microCopy s = settle (room s) (fun _ t =>
      .next { winWrite (winRead s.distr.toNat t) t with
              lenr := s.lenr - 1, cmode := if s.lenr = 1 then .start else s.cmode }) := by
  rw [microCopy, if_neg hdist.not_gt, if_neg hlen]
  exact settle_congr fun _ t hroom => congrArg _ (copyByte_of_delivered (room_ok hroom).1)

/-- Settles O32, by the outcomes of the distance check and of the count. -/
theorem copyStepRepeatsHistory : Obligations.CopyStepRepeatsHistory := by
  unfold Obligations.CopyStepRepeatsHistory
  intro s hbusy hmode hbmode hcmode
  have hselect : select s = .micro .copy := by rw [select_of_codes hmode hbmode, selectCodes, hcmode]
  have hstep : step s = microCopy s := step_of_micro hbusy hselect
  rw [hstep, ← hcmode]
  exact ⟨microCopy_of_tooFar, microCopy_of_done, microCopy_of_byte⟩

end Sys2Proof.Machine
end

section
/-! SUPPORT. The window: the byte at a distance after a write, the free place that `room()` makes, and the loading of a byte
sequence (R252 to R257). -/

namespace Sys2Proof.Machine

/-- `WR` and `RD` hold every window index, so a cursor reduced to the window's size does not wrap (R61). -/
theorem toNat_ofNat_mod_wsize (n : Nat) (s : State) : (BitVec.ofNat 15 (n % wsize s)).toNat = n % wsize s := by
  rw [BitVec.toNat_ofNat]
  exact Nat.mod_eq_of_lt ((Nat.mod_lt _ (wsize_pos s)).trans_le (wsize_le s))

/-- `WHAVE` holds every count up to the window's size (R63). -/
theorem toNat_ofNat_min_wsize (n : Nat) (s : State) : (BitVec.ofNat 16 (min n (wsize s))).toNat = min n (wsize s) := by
  have hsize := wsize_le s
  rw [BitVec.toNat_ofNat]
  exact Nat.mod_eq_of_lt (by omega)

/-! ### Distances (R74, R254) -/

theorem backIndex_lt (d : Nat) (s : State) : backIndex d s < wsize s := Nat.mod_lt _ (wsize_pos s)

/-- `d` places after the index at distance `d` stands the write cursor. -/
theorem backIndex_add_modEq (d : Nat) (s : State) : backIndex d s + d ≡ s.wr.toNat [MOD wsize s] := by
  have hd : d % wsize s ≤ wsize s := (Nat.mod_lt _ (wsize_pos s)).le
  calc backIndex d s + d
      ≡ (s.wr.toNat + (wsize s - d % wsize s)) + d % wsize s [MOD wsize s] :=
        (Nat.mod_modEq _ _).add (Nat.mod_modEq _ _).symm
    _ = s.wr.toNat + wsize s := by omega
    _ ≡ s.wr.toNat [MOD wsize s] := Nat.add_mod_right _ _

/-- The index at a distance is the only one of the window that the write cursor follows at that distance. -/
theorem backIndex_eq_of_modEq {d i : Nat} {s : State} (hi : i < wsize s) (h : i + d ≡ s.wr.toNat [MOD wsize s]) :
    backIndex d s = i :=
  (((backIndex_add_modEq d s).trans h.symm).add_right_cancel' d).eq_of_lt_of_lt (backIndex_lt d s) hi

theorem backIndex_zero {s : State} (hwr : s.wr.toNat < wsize s) : backIndex 0 s = s.wr.toNat :=
  backIndex_eq_of_modEq hwr rfl

/-- No distance below the window's size reaches the place to be written next. -/
theorem backIndex_ne_wr {d : Nat} {s : State} (hpos : 1 ≤ d) (hd : d < wsize s) : backIndex d s ≠ s.wr.toNat := by
  intro h
  have hmod : s.wr.toNat + d ≡ s.wr.toNat [MOD wsize s] := h ▸ backIndex_add_modEq d s
  exact Nat.not_dvd_of_pos_of_lt hpos hd (Nat.add_modEq_left_iff.1 hmod)

/-- A write moves every index one further back (R252, R254). -/
theorem backIndex_winWrite_succ (d : Nat) (b : Byte) (s : State) : backIndex (d + 1) (winWrite b s) = backIndex d s := by
  refine backIndex_eq_of_modEq (s := winWrite b s) (backIndex_lt d s) ?_
  rw [winWrite_wr, toNat_ofNat_mod_wsize]
  exact ((backIndex_add_modEq d s).add_right 1).trans (Nat.mod_modEq _ _).symm

theorem winRead_winWrite_one {s : State} (b : Byte) (hwr : s.wr.toNat < wsize s) (hwin : s.win.wf = true) :
    winRead 1 (winWrite b s) = b := by
  rw [winRead, backIndex_winWrite_succ, backIndex_zero hwr, winWrite_win, winAt_winStore_same _ _ hwin]

theorem winRead_winWrite_succ {d : Nat} {s : State} (b : Byte) (hpos : 1 ≤ d) (hd : d < wsize s) :
    winRead (d + 1) (winWrite b s) = winRead d s := by
  rw [winRead, backIndex_winWrite_succ, winWrite_win, winAt_winStore_other _ _ (backIndex_ne_wr hpos hd), winRead]

/-- `PEND` does not wrap while the window has a free place. -/
theorem winWrite_pend_toNat {s : State} (b : Byte) (h : s.pend.toNat < wsize s) :
    (winWrite b s).pend.toNat = s.pend.toNat + 1 := by
  have hsize := wsize_le s
  exact BitVec.toNat_add_of_lt (y := 1) (show s.pend.toNat + 1 < 2 ^ 16 by omega)

/-- Settles O34, by the index at each distance after the write. -/
theorem windowKeepsHistory : Obligations.WindowKeepsHistory := by
  unfold Obligations.WindowKeepsHistory
  intro s b hinv hwin hfree
  exact ⟨winRead_winWrite_one b hinv.write (winWf_wf hwin), fun _ hpos hd => winRead_winWrite_succ b hpos hd,
    toNat_ofNat_mod_wsize _ s, winWrite_pend_toNat b hfree, toNat_ofNat_min_wsize _ s,
    fun _ hi => winAt_winStore_other _ _ hi, rfl⟩

/-! ### `room()` (R253) -/

@[simp] theorem flush_wsize (s : State) : wsize (flush s) = wsize s := by rw [wsize, flush_wbits, wsize]

theorem room_of_free {s : State} (h : s.pend.toNat ≠ wsize s) : room s = .ok () s := if_neg h

theorem room_of_full {s : State} (h : s.pend.toNat = wsize s) :
    room s = if (flush s).pend.toNat = wsize s then .stop .needOut (flush s) else .ok () (flush s) := by
  rw [room, if_pos h]
  simp only [flush_wsize]

theorem flush_of_noOutput {s : State} (h : s.availOut = 0) : flush s = s := by
  have hcount : min s.pend.toNat s.availOut.toNat = 0 := by
    rw [h]
    exact Nat.min_zero _
  rw [flush, hcount, deliverN]

/-- A flush that has something to deliver and a place to deliver it lowers `PEND`. -/
theorem flush_pend_lt {s : State} (hpend : 0 < s.pend.toNat) (hout : s.availOut ≠ 0) :
    (flush s).pend.toNat < s.pend.toNat := by
  have hout' : s.availOut.toNat ≠ 0 := fun h => hout (BitVec.eq_of_toNat_eq h)
  have hcount := (flush_counts s).1
  omega

/-- Settles O35, by the three cases of the window and the output. -/
theorem roomFreesOneByte : Obligations.RoomFreesOneByte := by
  unfold Obligations.RoomFreesOneByte
  intro s _
  refine ⟨fun hfree => room_of_free hfree.ne, fun hfull hout => ?_, fun hfull hout => ?_⟩
  · have hlt : (flush s).pend.toNat < wsize s := hfull ▸ flush_pend_lt (hfull ▸ wsize_pos s) hout
    exact ⟨by rw [room_of_full hfull, if_neg hlt.ne], hlt⟩
  · rw [room_of_full hfull, flush_of_noOutput hout, if_pos hfull]

/-! ### A byte sequence in the window RAM (R257) -/

theorem winAt_winFill_other {bytes : List Byte} {i x : Nat} (m : Memory) (h : x < i ∨ i + bytes.length ≤ x) :
    winAt (winFill m i bytes) x = winAt m x := by
  induction bytes generalizing m i with
  | nil => rfl
  | cons b r ih =>
    rw [List.length_cons] at h
    rw [winFill, ih _ (by omega), winAt_winStore_other _ _ (by omega)]

theorem winAt_winFill_add {bytes : List Byte} {i k : Nat} {m : Memory} (hm : winWf m = true)
    (hcap : i + bytes.length ≤ 32768) (hk : k < bytes.length) : winAt (winFill m i bytes) (i + k) = bytes.getD k 0 := by
  induction bytes generalizing m i k with
  | nil => cases hk
  | cons b r ih =>
    rw [List.length_cons] at hcap hk
    rw [winFill]
    cases k with
    | zero =>
      rw [Nat.add_zero i, winAt_winFill_other _ (.inl (Nat.lt_add_one i)), winAt_winStore_same _ _ (winWf_wf hm),
        List.getD_cons_zero]
    | succ k =>
      rw [show i + (k + 1) = i + 1 + k by omega, ih (winWf_winStore b (by omega) hm) (by omega) (by omega), List.getD_cons_succ]

end Sys2Proof.Machine
end

section
/-! SUPPORT. SET_DICT (R257, R297). -/

namespace Sys2Proof.Machine

/-! ### The dictionary slice (R73) -/

theorem holds_cons {m : Memory} {a : Nat} {b : Byte} {bytes : List Byte} (h : holds m a (b :: bytes)) :
    m.read a = some b ∧ holds m (a + 1) bytes := by
  refine ⟨h 0 (Nat.succ_pos _), fun i hi => ?_⟩
  rw [Nat.add_assoc, Nat.add_comm 1 i]
  exact h (i + 1) (Nat.succ_lt_succ hi)

theorem readSlice_of_holds {m : Memory} {a : Nat} {bytes : List Byte} (h : holds m a bytes) :
    readSlice m a bytes.length = .ok bytes := by
  induction bytes generalizing a with
  | nil => rfl
  | cons b r ih =>
    obtain ⟨hread, hrest⟩ := holds_cons h
    simp only [List.length_cons, readSlice, hread, ih hrest]

theorem dictWraps_iff (s : State) : dictWraps s = true ↔ 2 ^ 32 < s.dictPtr.toNat + s.dictLen.toNat := decide_eq_true_iff

/-! ### What the dictionary leaves in the window (R257) -/

section LoadDict
variable (bytes : List Byte) (s : State)

theorem winAt_loadDict_history {i : Nat} (hwin : winWf s.win = true) (hi : i < min bytes.length (wsize s)) :
    winAt (loadDict bytes s).win i = bytes.getD (bytes.length - min bytes.length (wsize s) + i) 0 := by
  have hsize := wsize_le s
  have hlen : (bytes.drop (bytes.length - min bytes.length (wsize s))).length = min bytes.length (wsize s) := by
    rw [List.length_drop]
    omega
  have hfill := winAt_winFill_add (i := 0) hwin (by omega) (hlen ▸ hi)
  rwa [Nat.zero_add, List.getD_eq_getElem?_getD, List.getElem?_drop, ← List.getD_eq_getElem?_getD] at hfill

theorem winAt_loadDict_beyond {i : Nat} (hi : min bytes.length (wsize s) ≤ i) :
    winAt (loadDict bytes s).win i = winAt s.win i := by
  refine winAt_winFill_other s.win (.inr ?_)
  rw [List.length_drop]
  omega

theorem loadDict_wr_toNat : (loadDict bytes s).wr.toNat = min bytes.length (wsize s) % wsize s := toNat_ofNat_mod_wsize _ s

theorem loadDict_whave_toNat : (loadDict bytes s).whave.toNat = min bytes.length (wsize s) := toNat_ofNat_min_wsize _ s

end LoadDict

/-! ### The command (R297) -/

theorem exec_setDict_of_refused {s : State} (hown : s.own = true) (h : s.mode ≠ .dict0 ∨ dictWraps s = true) :
    exec .setDict s = .next (ret .streamError s) := by
  show execSetDict s = _
  rw [execSetDict, requireOwn, if_pos hown]
  by_cases hmode : s.mode = .dict0
  · rw [if_neg (not_not.2 hmode), if_pos (h.resolve_left (not_not.2 hmode))]
  · rw [if_pos hmode]

theorem exec_setDict_of_bytes {s : State} {bytes : List Byte} (hown : s.own = true) (hmode : s.mode = .dict0)
    (hwrap : ¬dictWraps s = true) (hread : readSlice s.memDict s.dictPtr.toNat s.dictLen.toNat = .ok bytes) :
    exec .setDict s =
      if adlerOf 1 bytes ≠ s.needw then .next (ret .dataError s)
      else .next (ret .ok { loadDict bytes s with mode := .blocks }) := by
  show execSetDict s = _
  rw [execSetDict, requireOwn, if_pos hown, if_neg (not_not.2 hmode), if_neg hwrap, hread]

/-- Settles O49, by the checks in the order of R297; the window's contents are those of `load_dict`. -/
theorem setDictLoadsTheWindow : Obligations.SetDictLoadsTheWindow := by
  unfold Obligations.SetDictLoadsTheWindow
  refine fun s hown => ⟨fun h => exec_setDict_of_refused hown (h.imp_right (dictWraps_iff s).2), ?_⟩
  intro hmode hfits bytes hlen hbytes
  have hwrap : ¬dictWraps s = true := mt (dictWraps_iff s).1 hfits.not_gt
  have hexec := exec_setDict_of_bytes hown hmode hwrap (hlen ▸ readSlice_of_holds hbytes)
  refine ⟨fun hsum => hexec.trans (if_pos hsum), fun hsum hwin => ?_⟩
  exact ⟨_, hexec.trans (if_neg (not_not.2 hsum)), fun _ hi => winAt_loadDict_history bytes s hwin hi,
    fun _ hi => winAt_loadDict_beyond bytes s hi, loadDict_wr_toNat bytes s, rfl, loadDict_whave_toNat bytes s, rfl⟩

end Sys2Proof.Machine
end

section
/-! SUPPORT. The checksum's two halves as sums over the bytes (R271, R272). -/

namespace Sys2Proof.Machine

/-! ### One byte (R271) -/

/-- The two halves fit in a word. -/
theorem adlerStep_toNat (a : Word) (b : Byte) :
    (adlerStep a b).toNat =
      (a.toNat / 2 ^ 16 + (a.toNat % 2 ^ 16 + b.toNat) % 65521) % 65521 * 2 ^ 16 + (a.toNat % 2 ^ 16 + b.toNat) % 65521 := by
  rw [adlerStep, BitVec.toNat_ofNat]
  exact Nat.mod_eq_of_lt (by omega)

theorem adlerStep_low (a : Word) (b : Byte) :
    (adlerStep a b).toNat % 2 ^ 16 = (a.toNat % 2 ^ 16 + b.toNat) % 65521 := by
  rw [adlerStep_toNat]
  omega

/-- The high half adds the low half already stepped. -/
theorem adlerStep_high (a : Word) (b : Byte) :
    (adlerStep a b).toNat / 2 ^ 16 = (a.toNat / 2 ^ 16 + (adlerStep a b).toNat % 2 ^ 16) % 65521 := by
  rw [adlerStep_low, adlerStep_toNat]
  omega

/-! ### A byte sequence (R272) -/

/-- The sum in the high half of R272: each byte as often as there are bytes from it to the end. -/
def weightedSum (bytes : List Byte) : Nat :=
  ((List.range bytes.length).map fun i => (bytes.length - i) * (bytes.getD i 0).toNat).sum

theorem weightedSum_cons (b : Byte) (bytes : List Byte) :
    weightedSum (b :: bytes) = (bytes.length + 1) * b.toNat + weightedSum bytes := by
  simp [weightedSum, List.range_succ_eq_map, Function.comp_def]

theorem adlerOf_halves_lt {a : Word} (bytes : List Byte) (hlow : a.toNat % 2 ^ 16 < 65521) (hhigh : a.toNat / 2 ^ 16 < 65521) :
    (adlerOf a bytes).toNat % 2 ^ 16 < 65521 ∧ (adlerOf a bytes).toNat / 2 ^ 16 < 65521 := by
  induction bytes generalizing a with
  | nil => exact ⟨hlow, hhigh⟩
  | cons b bytes ih => exact ih (adlerStep_halves a b).1 (adlerStep_halves a b).2

theorem adlerOf_low_modEq (a : Word) (bytes : List Byte) :
    (adlerOf a bytes).toNat % 2 ^ 16 ≡ a.toNat % 2 ^ 16 + (bytes.map BitVec.toNat).sum [MOD 65521] := by
  induction bytes generalizing a with
  | nil => rfl
  | cons b bytes ih =>
    calc (adlerOf (adlerStep a b) bytes).toNat % 2 ^ 16
        ≡ (adlerStep a b).toNat % 2 ^ 16 + (bytes.map BitVec.toNat).sum [MOD 65521] := ih _
      _ ≡ (a.toNat % 2 ^ 16 + b.toNat) + (bytes.map BitVec.toNat).sum [MOD 65521] := by
        rw [adlerStep_low]
        exact (Nat.mod_modEq _ _).add_right _
      _ = a.toNat % 2 ^ 16 + ((b :: bytes).map BitVec.toNat).sum := by
        rw [List.map_cons, List.sum_cons, Nat.add_assoc]

/-- The low half at the start is added once for every byte. -/
theorem adlerOf_high_modEq (a : Word) (bytes : List Byte) :
    (adlerOf a bytes).toNat / 2 ^ 16 ≡
      a.toNat / 2 ^ 16 + bytes.length * (a.toNat % 2 ^ 16) + weightedSum bytes [MOD 65521] := by
  induction bytes generalizing a with
  | nil =>
    rw [List.length_nil, Nat.zero_mul]
    rfl
  | cons b bytes ih =>
    have hlow : (adlerStep a b).toNat % 2 ^ 16 ≡ a.toNat % 2 ^ 16 + b.toNat [MOD 65521] := by
      rw [adlerStep_low]
      exact Nat.mod_modEq _ _
    have hhigh : (adlerStep a b).toNat / 2 ^ 16 ≡ a.toNat / 2 ^ 16 + (a.toNat % 2 ^ 16 + b.toNat) [MOD 65521] := by
      rw [adlerStep_high]
      exact (Nat.mod_modEq _ _).trans (hlow.add_left _)
    calc (adlerOf (adlerStep a b) bytes).toNat / 2 ^ 16
        ≡ (adlerStep a b).toNat / 2 ^ 16 + bytes.length * ((adlerStep a b).toNat % 2 ^ 16) + weightedSum bytes [MOD 65521] :=
          ih _
      _ ≡ a.toNat / 2 ^ 16 + (a.toNat % 2 ^ 16 + b.toNat) + bytes.length * (a.toNat % 2 ^ 16 + b.toNat)
            + weightedSum bytes [MOD 65521] := (hhigh.add (hlow.mul_left _)).add_right _
      _ = a.toNat / 2 ^ 16 + (b :: bytes).length * (a.toNat % 2 ^ 16) + weightedSum (b :: bytes) := by
        rw [weightedSum_cons, List.length_cons]
        ring

/-- Settles O37, by induction on the bytes from any starting value: each half is congruent to its sum, and stays below 65521. -/
theorem adlerHasClosedForm : Obligations.AdlerHasClosedForm := by
  unfold Obligations.AdlerHasClosedForm
  intro bytes
  obtain ⟨hlow, hhigh⟩ := adlerOf_halves_lt (a := 1) bytes (by decide) (by decide)
  constructor
  · exact (Nat.mod_eq_of_lt hlow).symm.trans (adlerOf_low_modEq 1 bytes)
  · calc (adlerOf 1 bytes).toNat / 2 ^ 16
        = (adlerOf 1 bytes).toNat / 2 ^ 16 % 65521 := (Nat.mod_eq_of_lt hhigh).symm
      _ = (0 + bytes.length * 1 + weightedSum bytes) % 65521 := adlerOf_high_modEq 1 bytes
      _ = (bytes.length + weightedSum bytes) % 65521 := by rw [Nat.zero_add, Nat.mul_one]

end Sys2Proof.Machine
end

section
/-! SUPPORT. The wrapper's bytes: the method byte, the dictionary id, the trailer (R291, R293, R296). -/

namespace Sys2Proof.Machine

/-! ### A micro-step that reads one byte -/

/-- An element whose format is a byte is decoded from the low byte of the accumulator (R104 to R107). -/
theorem step_of_byte {s : State} {slot : Slot} {instr : Byte → Instr} (hbusy : s.busy = true)
    (hselect : select s = .element slot) (hfetch : fetch slot s = fetchBits 8 s)
    (hdecode : ∀ bits, decode slot Entry.invalid bits = instr (BitVec.ofNat 8 (fieldAt bits.toNat 0 8))) :
    step s = settle (needBits 8 s) (fun _ t => exec (instr (BitVec.ofNat 8 t.bitb.toNat)) t) := by
  rw [step_of_field hbusy hselect hfetch]
  simp only [hdecode, ofNat_fieldAt, pow_zero, Nat.div_one]

/-! ### The method byte -/

theorem exec_cmf_of_method {c : Byte} (h : c.toNat % 16 ≠ 8) (s : State) : exec (.cmf c) s = .next (raise 1 s) := by
  have hmethod : fieldAt c.toNat 0 4 ≠ 8 := by simpa [fieldAt] using h
  exact if_pos hmethod

/-- The window size a method byte declares is judged only when its method is deflate (R291). -/
theorem exec_cmf_of_deflate {c : Byte} (h : c.toNat % 16 = 8) (s : State) :
    exec (.cmf c) s =
      if s.wbitsCfg.toNat < c.toNat / 16 + 8 then .next (raise 2 s)
      else .next { consume 8 s with methodr := c, mode := .flag } := by
  have hmethod : ¬fieldAt c.toNat 0 4 ≠ 8 := by simpa [fieldAt] using h
  have hwindow : fieldAt c.toNat 4 4 = c.toNat / 16 := Nat.mod_eq_of_lt (by omega)
  show execCmf c s = _
  rw [execCmf, if_neg hmethod, hwindow]

/-- Settles O40, by the method and then the window size. -/
theorem methodByteIsChecked : Obligations.MethodByteIsChecked := by
  unfold Obligations.MethodByteIsChecked
  refine ⟨fun c s => ⟨fun hmethod => exec_cmf_of_method hmethod s, fun hdeflate hlarge => ?_, fun hdeflate hfits => ?_⟩,
    fun s hbusy hmode => ?_⟩
  · rw [exec_cmf_of_deflate hdeflate, if_pos hlarge]
  · rw [exec_cmf_of_deflate hdeflate, if_neg hfits.not_gt]
  · have hselect : select s = .element .method := by rw [select, hmode]
    exact step_of_byte hbusy hselect rfl fun _ => rfl

/-! ### The dictionary id -/

theorem exec_dictid (k : Fin 4) (b : Byte) (s : State) :
    exec (.dictid k b) s = .next { consume 8 s with needw := wordByte k b s.needw, mode := afterDict k } := rfl

/-- Settles O42, byte by byte. -/
theorem dictionaryIdIsAssembled : Obligations.DictionaryIdIsAssembled := by
  unfold Obligations.DictionaryIdIsAssembled
  refine ⟨fun b s => ⟨exec_dictid 0 b s, exec_dictid 1 b s, exec_dictid 2 b s, exec_dictid 3 b s⟩, ?_⟩
  intro s hbusy p hp hmode
  have hselect : select s = .element (.dict p.2) := by
    rw [select, hmode]
    fin_cases hp <;> rfl
  exact step_of_byte hbusy hselect rfl fun _ => rfl

/-! ### The trailer -/

/-- The trailer's bytes before the last are kept and not compared (R296). -/
theorem exec_adler32_of_not_last {k : Fin 4} (h : k ≠ 3) (b : Byte) (s : State) :
    exec (.adler32 k b) s = .next { consume 8 s with needw := wordByte k b s.needw, mode := afterCheck k } :=
  if_neg fun hlast => h hlast.1

/-- At the last byte the word is compared (R296). -/
theorem exec_adler32_last (b : Byte) (s : State) :
    exec (.adler32 3 b) s =
      if s.needw ||| b.setWidth 32 ≠ s.wasw then .next (raise 14 s)
      else .next { consume 8 s with needw := s.needw ||| b.setWidth 32, mode := .done } :=
  if_congr (and_iff_right rfl) rfl rfl

/-- Settles O43: the word is compared at the last byte only. -/
theorem trailerIsCompared : Obligations.TrailerIsCompared := by
  unfold Obligations.TrailerIsCompared
  refine ⟨fun b s => ⟨exec_adler32_of_not_last (by decide) b s, exec_adler32_of_not_last (by decide) b s,
    exec_adler32_of_not_last (by decide) b s, fun hne => ?_, fun heq => ?_⟩, fun s hbusy p hp hmode => ?_⟩
  · rw [exec_adler32_last, if_pos hne]
  · rw [exec_adler32_last, if_neg (not_not.2 heq), heq]
  · have hselect : select s = .element (.check p.2) := by
      rw [select, hmode]
      fin_cases hp <;> rfl
    exact step_of_byte hbusy hselect rfl fun _ => rfl

end Sys2Proof.Machine
end

section
/-! SUPPORT. The commands that are refused, RESET and END (R281, R282, R285, R286). -/

namespace Sys2Proof.Machine

/-- A code in `CMD` of an idle engine that is no command is read as the illegal one (R22, R101). -/
theorem step_of_illegal {c : Byte} {s : State} (hc : c = 0 ∨ 7 ≤ c.toNat) (hbusy : s.busy = false) (hcmd : s.cmd = some c) :
    step s = exec (.cmdIllegal c) { s with cmd := none } := by
  have hwf : (Instr.cmdIllegal c).wf = true := by
    rw [Instr.wf, Bool.or_eq_true, decide_eq_true_iff, decide_eq_true_iff]
    exact hc.imp_left (congrArg BitVec.toNat)
  have hdecode : decode .command Entry.invalid (c.setWidth 32) = .cmdIllegal c := by
    rw [← BitVec.ofNat_toNat]
    exact Laws.RoundTrip.cmdIllegal c hwf
  have hidle : ¬s.busy = true := by simp [hbusy]
  rw [step, if_neg hidle, hcmd]
  exact congrArg (exec · { s with cmd := none }) hdecode

/-- Settles O45, by the illegal code and the ownership check. -/
theorem misusedCommandsAreRefused : Obligations.MisusedCommandsAreRefused := by
  unfold Obligations.MisusedCommandsAreRefused
  refine ⟨fun c s hc => ⟨rfl, step_of_illegal hc⟩, fun s hown i hi => ?_⟩
  have hforeign : ¬s.own = true := by simp [hown]
  fin_cases hi <;> exact if_neg hforeign

/-- Settles O47: each passes the ownership check. -/
theorem resetKeepsConfigurationEndReleases : Obligations.ResetKeepsConfigurationEndReleases := by
  unfold Obligations.ResetKeepsConfigurationEndReleases
  exact fun s hown => ⟨if_pos hown, if_pos hown⟩

end Sys2Proof.Machine
end

section
/-! SUPPORT. How a STEP ends: every micro-step leaves it running, or ends it by the one routine that closes a STEP (R9, R290). -/

namespace Sys2Proof.Machine

/-- STEP is still running, or a stop has ended it (R290). -/
def RunsOrFinished (t : State) : Prop := t.busy = true ∨ ∃ r s, t = finish r s

/-- A micro-step ends a STEP by a stop and in no other way. -/
def EndsByStop (o : Host.Outcome State Fault Refusal) : Prop := ∀ t, o = .next t → RunsOrFinished t

theorem RunsOrFinished.endsByStop {t : State} (h : RunsOrFinished t) : EndsByStop (.next t) := by
  rintro _ ⟨⟩
  exact h

theorem endsByStop_of_running {t : State} (h : t.busy = true) : EndsByStop (.next t) := RunsOrFinished.endsByStop (.inl h)

theorem endsByStop_finish (r : Stop) (s : State) : EndsByStop (.next (finish r s)) := RunsOrFinished.endsByStop (.inr ⟨r, s, rfl⟩)

/-- A fatal error is a stop (R331). -/
theorem runsOrFinished_raise (id : Nat) (s : State) : RunsOrFinished (raise id s) := .inr ⟨_, _, rfl⟩

theorem endsByStop_raise (id : Nat) (s : State) : EndsByStop (.next (raise id s)) := (runsOrFinished_raise id s).endsByStop

theorem endsByStop_raiseInvalid (k : Kind) (s : State) : EndsByStop (.next (raiseInvalid k s)) := by
  cases k <;> exact endsByStop_raise _ _

theorem RunsOrFinished.ite {p : Prop} [Decidable p] {t u : State} (ht : RunsOrFinished t) (hu : RunsOrFinished u) :
    RunsOrFinished (if p then t else u) := iteInduction (fun _ => ht) (fun _ => hu)

theorem EndsByStop.ite {p : Prop} [Decidable p] {o q : Host.Outcome State Fault Refusal} (ho : EndsByStop o) (hq : EndsByStop q) :
    EndsByStop (if p then o else q) := iteInduction (fun _ => ho) (fun _ => hq)

theorem EndsByStop.settle {α : Type} {g : Got α} {k : α → State → Host.Outcome State Fault Refusal}
    (h : ∀ a t, g = .ok a t → EndsByStop (k a t)) : EndsByStop (settle g k) := by
  intro t hnext
  obtain ⟨a, u, hok, hk⟩ | ⟨r, u, -, rfl⟩ := settle_next hnext
  · exact h a u hok t hk
  · exact .inr ⟨r, u, rfl⟩

/-! ### The operations that may stop keep `BUSY` -/

theorem Pulled.busy_eq {s t : State} (h : Pulled s t) : t.busy = s.busy := by rw [h]

theorem Delivered.busy_eq {s t : State} (h : Delivered s t) : t.busy = s.busy := by rw [h]

theorem alignBits_busy (s : State) : (alignBits s).busy = s.busy := consume_busy _ s

/-- An answer of two operations in a row comes from an answer of each. -/
theorem Got.bind_ok {α β : Type} {g : Got α} {k : α → State → Got β} {b : β} {t : State} (h : g.bind k = .ok b t) :
    ∃ a u, g = .ok a u ∧ k a u = .ok b t := by
  cases g with
  | ok a u => exact ⟨a, u, rfl, h⟩
  | stop r u => cases h
  | fault f => cases h

theorem fetchBits_pulled {n : Nat} {s t : State} {e : Entry} (h : fetchBits n s = .ok e t) : Pulled s t := by
  obtain ⟨_, u, hpulls, hok⟩ := Got.bind_ok h
  cases hok
  exact pulls_ok_pulled hpulls

theorem fetchCl_pulled {s t : State} {e : Entry} (h : fetchCl s = .ok e t) : Pulled s t := by
  obtain ⟨e', u, hlookup, hextra⟩ := Got.bind_ok h
  refine (lookupLoop_pulled hlookup).trans ?_
  split at hextra
  · cases hextra
    exact .refl _
  · obtain ⟨_, v, hpulls, hok⟩ := Got.bind_ok hextra
    cases hok
    exact pulls_ok_pulled hpulls

/-- A fetch that answers may have delivered output, and then has only pulled (R148, R197). -/
theorem fetch_ok {slot : Slot} {s t : State} {e : Entry} (h : fetch slot s = .ok e t) : ∃ u, Delivered s u ∧ Pulled u t := by
  cases slot
  case command | align =>
    cases h
    exact ⟨s, rfl, .refl _⟩
  case stored =>
    obtain ⟨_, u, hroom, hbits⟩ := Got.bind_ok h
    exact ⟨u, (room_ok hroom).1, fetchBits_pulled hbits⟩
  case dtree => exact ⟨s, rfl, fetchCl_pulled h⟩
  case len | dist => exact ⟨s, rfl, lookupLoop_pulled h⟩
  all_goals exact ⟨s, rfl, fetchBits_pulled h⟩

theorem fetch_ok_busy {slot : Slot} {s t : State} {e : Entry} (h : fetch slot s = .ok e t) : t.busy = s.busy := by
  obtain ⟨u, hdelivered, hpulled⟩ := fetch_ok h
  exact hpulled.busy_eq.trans hdelivered.busy_eq

/-! ### The code-length symbols (R201 to R205) -/

/-- The instruction of the code-length symbol `c` is that symbol with the extra bits above its code (R201 to R204). -/
theorem exec_clInstr {c : Nat} {n : BitVec 4} {i : Instr} {s : State} (h : clInstr c n s.bitb.toNat = some i) :
    exec i s = .next (clSymbol c n s) := by
  have hextra (w : Nat) : (BitVec.ofNat w (fieldAt s.bitb.toNat n.toNat w)).toNat = fieldAt s.bitb.toNat n.toNat w :=
    Nat.mod_eq_of_lt (Nat.mod_lt _ (Nat.two_pow_pos w))
  unfold clInstr at h
  split at h <;> cases h
  -- 16, 17 and 18: the operand is as wide as the extra bits
  case h_17 => exact congrArg (fun x => Host.Outcome.next (clRepeat (n.toNat + 2) (3 + x) s)) (hextra 2)
  case h_18 => exact congrArg (fun x => Host.Outcome.next (clZeros (n.toNat + 3) (3 + x) s)) (hextra 3)
  case h_19 => exact congrArg (fun x => Host.Outcome.next (clZeros (n.toNat + 7) (11 + x) s)) (hextra 7)
  all_goals rfl

section Running
variable {s : State} (hbusy : s.busy = true)
include hbusy

theorem runsOrFinished_clZeros (w j : Nat) : RunsOrFinished (clZeros w j s) := .ite (.inl hbusy) (runsOrFinished_raise _ _)

theorem runsOrFinished_clRepeat (w j : Nat) : RunsOrFinished (clRepeat w j s) := .ite (runsOrFinished_raise _ _) (.inl hbusy)

theorem runsOrFinished_clSymbol (c : Nat) (n : BitVec 4) : RunsOrFinished (clSymbol c n s) :=
  .ite (.inl hbusy) (.ite (runsOrFinished_clRepeat hbusy _ _)
    (.ite (runsOrFinished_clZeros hbusy _ _) (.ite (runsOrFinished_clZeros hbusy _ _) (runsOrFinished_raise _ _))))

/-! ### The elements, by the decoder state that reads them -/

theorem endsByStop_tLit (n : BitVec 4) (v : BitVec 16) : EndsByStop (exec (.tLit n v) s) := by
  show EndsByStop (execTLit n v s)
  unfold execTLit
  cases lookupKind s with
  | cl => exact (runsOrFinished_clSymbol hbusy _ _).endsByStop
  | ll => exact endsByStop_of_running hbusy
  | d => exact endsByStop_raiseInvalid _ _

theorem endsByStop_tLink (w n : BitVec 4) (v : BitVec 16) : EndsByStop (exec (.tLink w n v) s) := by
  show EndsByStop (execTLink w n v s)
  unfold execTLink
  cases lookupKind s with
  | cl => exact endsByStop_raiseInvalid _ _
  | ll | d => exact endsByStop_of_running hbusy

theorem endsByStop_tBase (x n : BitVec 4) (v : BitVec 16) : EndsByStop (exec (.tBase x n v) s) := by
  show EndsByStop (execTBase x n v s)
  unfold execTBase
  cases lookupKind s with
  | cl => exact endsByStop_raiseInvalid _ _
  | ll | d => exact endsByStop_of_running hbusy

theorem endsByStop_tEob (n : BitVec 4) (v : BitVec 16) : EndsByStop (exec (.tEob n v) s) := by
  show EndsByStop (execTEob n v s)
  unfold execTEob
  cases lookupKind s with
  | ll => exact endsByStop_of_running hbusy
  | cl | d => exact endsByStop_raiseInvalid _ _

/-- A table entry taken by its class (R174, R177, R180). -/
theorem endsByStop_decodeEntry (e : Entry) : EndsByStop (exec (decodeEntry e) s) := by
  unfold decodeEntry
  cases entryClass e.op with
  | lit => exact endsByStop_tLit hbusy _ _
  | link w => exact endsByStop_tLink hbusy _ _ _
  | base x => exact endsByStop_tBase hbusy _ _ _
  | eob => exact endsByStop_tEob hbusy _ _
  | invalid => exact endsByStop_raiseInvalid _ _

/-- An element that is a symbol of its alphabet, or else an entry taken by its class. -/
theorem endsByStop_getD_decodeEntry {o : Option Instr} (e : Entry) (h : ∀ i, o = some i → EndsByStop (exec i s)) :
    EndsByStop (exec (o.getD (decodeEntry e)) s) := by
  cases o with
  | none => exact endsByStop_decodeEntry hbusy e
  | some i => exact h i rfl

theorem endsByStop_decodeCl (e : Entry) : EndsByStop (exec (decodeCl e s.bitb.toNat) s) := by
  have hentry := endsByStop_decodeEntry hbusy e
  unfold decodeCl
  cases entryClass e.op with
  | lit =>
    rw [apply_ite (exec · s)]
    refine .ite (endsByStop_getD_decodeEntry hbusy e fun i hi => ?_) hentry
    rw [exec_clInstr hi]
    exact (runsOrFinished_clSymbol hbusy _ _).endsByStop
  | invalid =>
    rw [apply_ite (exec · s)]
    exact .ite (endsByStop_raise _ _) hentry
  | link w | base x | eob => exact hentry

theorem endsByStop_decodeLl (e : Entry) (bits : Nat) : EndsByStop (exec (decodeLl e bits) s) := by
  have hentry := endsByStop_decodeEntry hbusy e
  unfold decodeLl
  cases entryClass e.op with
  | lit | eob =>
    rw [apply_ite (exec · s)]
    exact .ite (endsByStop_of_running hbusy) hentry
  | base x =>
    rw [apply_ite (exec · s)]
    refine .ite (endsByStop_getD_decodeEntry hbusy e fun i hi => ?_) hentry
    obtain ⟨k, -, hk⟩ := Option.bind_eq_some_iff.1 hi
    rw [exec_lenInstr hk]
    exact endsByStop_of_running hbusy
  | link w => exact hentry
  | invalid =>
    simp only [apply_ite (exec · s)]
    exact .ite (.ite (endsByStop_raise _ _) (.ite (endsByStop_raise _ _) (endsByStop_raise _ _))) hentry

theorem endsByStop_decodeDist (e : Entry) (bits : Nat) : EndsByStop (exec (decodeDist e bits) s) := by
  have hentry := endsByStop_decodeEntry hbusy e
  unfold decodeDist
  cases entryClass e.op with
  | base x =>
    rw [apply_ite (exec · s)]
    refine .ite (endsByStop_getD_decodeEntry hbusy e fun i hi => ?_) hentry
    obtain ⟨k, -, hk⟩ := Option.bind_eq_some_iff.1 hi
    rw [exec_distInstr hk]
    exact endsByStop_of_running hbusy
  | invalid =>
    simp only [apply_ite (exec · s)]
    exact .ite (.ite (endsByStop_raise _ _) (.ite (endsByStop_raise _ _) (endsByStop_raise _ _))) hentry
  | lit | link w | eob => exact hentry

/-! ### The elements that are plain fields -/

theorem endsByStop_header (bits : Nat) : EndsByStop (exec (decodeHeader bits) s) := by
  unfold decodeHeader
  split
  · exact endsByStop_of_running ((alignBits_busy _).trans hbusy)
  · exact endsByStop_of_running hbusy
  · exact endsByStop_of_running hbusy
  · exact endsByStop_raise _ _

theorem endsByStop_raw (b : Byte) : EndsByStop (exec (.raw b) s) :=
  .settle fun _ _ hroom => endsByStop_of_running ((room_ok hroom).1.busy_eq.trans hbusy)

/-- What the decoder reads from the accumulator while STEP runs is a stream element and no host command (R100). -/
theorem endsByStop_decode {slot : Slot} (hslot : slot ≠ .command) (e : Entry) : EndsByStop (exec (decode slot e s.bitb) s) := by
  cases slot
  case command => exact absurd rfl hslot
  case method => exact .ite (endsByStop_raise _ _) (.ite (endsByStop_raise _ _) (endsByStop_of_running hbusy))
  case header => exact endsByStop_header hbusy _
  case align => exact .ite (endsByStop_of_running hbusy) (endsByStop_of_running hbusy)
  case stored => exact endsByStop_raw hbusy _
  case flag | check | lens | table => exact .ite (endsByStop_raise _ _) (endsByStop_of_running hbusy)
  case dtree => exact endsByStop_decodeCl hbusy e
  case len => exact endsByStop_decodeLl hbusy e _
  case dist => exact endsByStop_decodeDist hbusy e _
  case dict | btree | lenext | distext => exact endsByStop_of_running hbusy

/-! ### The micro-steps that decode nothing -/

theorem endsByStop_drain {k : State → State} (hk : ∀ t, (k t).busy = t.busy) : EndsByStop (drain k s) := by
  rw [drain_eq]
  exact .ite (endsByStop_of_running ((hk _).trans ((flush_busy s).trans hbusy))) (endsByStop_finish _ _)

theorem runsOrFinished_microBuildCl : RunsOrFinished (microBuildCl s) := by
  unfold microBuildCl
  split
  · exact .inl hbusy
  · exact runsOrFinished_raise _ _

theorem runsOrFinished_buildDistance (lt : List Entry) : RunsOrFinished (buildDistance lt s) := by
  unfold buildDistance
  split
  · exact runsOrFinished_raise _ _
  · exact runsOrFinished_raise _ _
  · exact .inl hbusy
  · exact .inl hbusy

theorem runsOrFinished_microBuildCodes : RunsOrFinished (microBuildCodes s) := by
  unfold microBuildCodes
  split
  · exact runsOrFinished_buildDistance hbusy _
  · exact runsOrFinished_raise _ _

theorem endsByStop_runMicro (m : Micro) : EndsByStop (runMicro m s) := by
  cases m
  case start | blockEnd | bdoneRaw => exact endsByStop_of_running hbusy
  case litWrite => exact .settle fun _ _ hroom => endsByStop_of_running ((room_ok hroom).1.busy_eq.trans hbusy)
  case copy =>
    exact .ite (endsByStop_raise _ _) (.ite (endsByStop_of_running hbusy)
      (.settle fun _ _ hroom => endsByStop_of_running ((room_ok hroom).1.busy_eq.trans hbusy)))
  case wash => exact endsByStop_drain hbusy (k := fun t => { t with cmode := .blockEnd }) fun _ => rfl
  case dry => exact endsByStop_drain hbusy (k := fun t => { t with bmode := .bdone }) fun _ => rfl
  case buildCl => exact (runsOrFinished_microBuildCl hbusy).endsByStop
  case buildCodes => exact (runsOrFinished_microBuildCodes hbusy).endsByStop
  case dict0 | done | bad => exact endsByStop_finish _ _
  case dead => exact fun _ h => nomatch h

end Running

/-! ### The step -/

/-- The state registers select no host command (R100, R290). -/
theorem select_ne_command (s : State) : select s ≠ .element .command := by
  unfold select selectBlock selectCodes
  repeat' split
  all_goals exact nofun

/-- A step of a running STEP leaves it running or ends it by a stop (R9, R290). -/
theorem step_endsByStop {s : State} (hbusy : s.busy = true) : EndsByStop (step s) := by
  cases hselect : select s with
  | micro m =>
    rw [step_of_micro hbusy hselect]
    exact endsByStop_runMicro hbusy m
  | element slot =>
    have hslot : slot ≠ .command := fun h => select_ne_command s (h ▸ hselect)
    rw [step_of_element hbusy hselect]
    exact .settle fun e _ hfetch => endsByStop_decode ((fetch_ok_busy hfetch).trans hbusy) hslot e

/-! ### The status of a STEP that stops (R301, R302) -/

/-- Progress counts the bytes that the closing `flush()` delivers (R302). -/
theorem progressed_flush_iff (s : State) :
    progressed (flush s) = true ↔ ¬(s.availIn = s.entryIn ∧ (flush s).availOut = s.entryOut) := by
  simp [progressed, imp_iff_not_or]

/-- A stop for input or room answers by progress (R301). -/
theorem statusCode_of_progress (s : State) :
    statusCode (if progressed (flush s) then .ok else .bufError) =
      if s.availIn = s.entryIn ∧ (flush s).availOut = s.entryOut then 0xFB else 0x00 := by
  rw [if_congr (progressed_flush_iff s) rfl rfl, ite_not, apply_ite statusCode]
  rfl

/-- A STEP that has ended has nothing pending or no room (R258). -/
theorem finish_drained (r : Stop) (s : State) : (finish r s).pend = 0 ∨ (finish r s).availOut = 0 :=
  (flush_drained s).imp BitVec.eq_of_toNat_eq BitVec.eq_of_toNat_eq

/-- Settles O39: the status by the stop's reason; and what is no longer running was ended by a stop, whose last act is `flush()`. -/
theorem stoppedStepReportsStatus : Obligations.StoppedStepReportsStatus := by
  unfold Obligations.StoppedStepReportsStatus
  refine ⟨fun r s => ⟨rfl, ?_⟩, fun s t hbusy hstep hidle => ?_⟩
  · rw [finish_code]
    cases r
    case finished | err | dict => rfl
    case needIn | needOut => exact statusCode_of_progress s
  · obtain hrunning | ⟨r, u, rfl⟩ := step_endsByStop hbusy t hstep
    · exact absurd hrunning (by simp [hidle])
    · exact finish_drained r u

end Sys2Proof.Machine
end

section
/-! SUPPORT. What a fatal error saves, and that its closing `flush()` neither reads nor writes it (R18, R255, R331). -/

namespace Sys2Proof.Machine

/-- The registers that `raise E(id)` writes before the closing `flush()` (R331). -/
def saveCause (id : Nat) (s : State) : State := { s with msg := BitVec.ofNat 8 id, mode := .bad, marker := 0 }

theorem raise_eq_finish (id : Nat) (s : State) : raise id s = finish .err (saveCause id s) := rfl

theorem deliver_saveCause (id : Nat) (s : State) : deliver (saveCause id s) = saveCause id (deliver s) := rfl

theorem deliverN_saveCause (id k : Nat) (s : State) : deliverN k (saveCause id s) = saveCause id (deliverN k s) := by
  induction k generalizing s with
  | zero => rfl
  | succ k ih => rw [deliverN, deliver_saveCause, ih, deliverN]

/-- The bytes go out after a fatal error as they would have without it. -/
theorem flush_saveCause (id : Nat) (s : State) : flush (saveCause id s) = saveCause id (flush s) :=
  deliverN_saveCause id (min s.pend.toNat s.availOut.toNat) s

/-- A fatal error is the closing `flush()`, the saved cause and the status `DATA_ERROR` (R301, R331). -/
theorem raise_eq_saveCause_flush (id : Nat) (s : State) :
    raise id s = { saveCause id (flush s) with code := statusCode .dataError, busy := false } := by
  rw [raise_eq_finish, finish, flush_saveCause]
  rfl

/-- Settles O38: saving the cause commutes with the closing `flush()`, which leaves the bits, the window and the sub-states alone. -/
theorem raiseSavesCauseOnly : Obligations.RaiseSavesCauseOnly := by
  unfold Obligations.RaiseSavesCauseOnly
  intro id s
  exact ⟨raise_eq_saveCause_flush id s, finish_bitb _ _, finish_bitk _ _, finish_win _ _, finish_wr _ _, finish_whave _ _,
    finish_bmode _ _, finish_cmode _ _⟩

end Sys2Proof.Machine
end

section
/-! SUPPORT. An idle engine that owns no stream: INIT is the only command it does not refuse (R282, R370). -/

namespace Sys2Proof.Machine

/-- A command is decoded from the code in `CMD` alone (R101). -/
theorem decode_command (e : Entry) (c : Byte) : decode .command e (c.setWidth 32) = decodeCommand c := by
  rw [decode, ← BitVec.ofNat_toNat, Laws.RoundTrip.field_back c (by decide)]

/-- The code in `CMD` of an idle engine starts its command, and `CMD` holds nothing afterwards (R22, R281). -/
theorem step_of_command {c : Byte} {s : State} (hbusy : s.busy = false) (hcmd : s.cmd = some c) :
    step s = exec (decodeCommand c) { s with cmd := none } := by
  have hidle : ¬s.busy = true := by simp [hbusy]
  rw [step, if_neg hidle, hcmd]
  exact congrArg (exec · { s with cmd := none }) (decode_command Entry.invalid c)

/-- The codes 2 to 6 are the commands that need a stream of their own (R101, R282). -/
theorem decodeCommand_mem_of_legal {c : Byte} (hinit : c ≠ 1) (hlegal : ¬(c = 0 ∨ 7 ≤ c.toNat)) :
    decodeCommand c ∈ [Instr.reset, .stepCmd, .setDict, .sync, .endCmd] := by
  have hcode : c.toNat = 2 ∨ c.toNat = 3 ∨ c.toNat = 4 ∨ c.toNat = 5 ∨ c.toNat = 6 := by bv_omega
  rcases hcode with h | h | h | h | h <;> simp [decodeCommand, h]

/-- Settles O6: a code that is no command is refused outright, the other five by the ownership check. -/
theorem hardwareResetOwnsNothing : Obligations.HardwareResetOwnsNothing := by
  unfold Obligations.HardwareResetOwnsNothing
  refine ⟨rfl, rfl, fun _ => ⟨rfl, rfl⟩, fun s c hinit hown hbusy hcmd => ?_⟩
  obtain ⟨hillegal, hforeign⟩ := misusedCommandsAreRefused
  by_cases hc : c = 0 ∨ 7 ≤ c.toNat
  · exact (hillegal c s hc).2 hbusy hcmd
  · rw [step_of_command hbusy hcmd]
    exact hforeign { s with cmd := none } hown _ (decodeCommand_mem_of_legal hinit hc)

end Sys2Proof.Machine
end

section
/-! SUPPORT. The decoder and the encoder: every constructor's round trip, and the well-formedness of what the decoder answers. -/

namespace Sys2Proof.Laws.RoundTrip

/-- Every constructor's round trip. -/
theorem statement_all : ∀ i : Instr, Statement i
  | .init => init
  | .reset => reset
  | .stepCmd => stepCmd
  | .setDict => setDict
  | .sync => sync
  | .endCmd => endCmd
  | .cmdIllegal c => cmdIllegal c
  | .cmf c => cmf c
  | .flg f => flg f
  | .dictid k b => dictid k b
  | .adler32 k b => adler32 k b
  | .blkStored final => blkStored final
  | .blkFixed final => blkFixed final
  | .blkDynamic final => blkDynamic final
  | .blkReserved final => blkReserved final
  | .align n pad => align n pad
  | .stlen len nlen => stlen len nlen
  | .raw b => raw b
  | .counts hlit hdist hclen => counts hlit hdist hclen
  | .cll l => cll l
  | .clLen0 n => clLen0 n
  | .clLen1 n => clLen1 n
  | .clLen2 n => clLen2 n
  | .clLen3 n => clLen3 n
  | .clLen4 n => clLen4 n
  | .clLen5 n => clLen5 n
  | .clLen6 n => clLen6 n
  | .clLen7 n => clLen7 n
  | .clLen8 n => clLen8 n
  | .clLen9 n => clLen9 n
  | .clLen10 n => clLen10 n
  | .clLen11 n => clLen11 n
  | .clLen12 n => clLen12 n
  | .clLen13 n => clLen13 n
  | .clLen14 n => clLen14 n
  | .clLen15 n => clLen15 n
  | .clRep n x => clRep n x
  | .clZrep3 n x => clZrep3 n x
  | .clZrep11 n x => clZrep11 n x
  | .clInvalid n => clInvalid n
  | .lit n b => lit n b
  | .eob n => eob n
  | .len257 n => len257 n
  | .len258 n => len258 n
  | .len259 n => len259 n
  | .len260 n => len260 n
  | .len261 n => len261 n
  | .len262 n => len262 n
  | .len263 n => len263 n
  | .len264 n => len264 n
  | .len265 n => len265 n
  | .len266 n => len266 n
  | .len267 n => len267 n
  | .len268 n => len268 n
  | .len269 n => len269 n
  | .len270 n => len270 n
  | .len271 n => len271 n
  | .len272 n => len272 n
  | .len273 n => len273 n
  | .len274 n => len274 n
  | .len275 n => len275 n
  | .len276 n => len276 n
  | .len277 n => len277 n
  | .len278 n => len278 n
  | .len279 n => len279 n
  | .len280 n => len280 n
  | .len281 n => len281 n
  | .len282 n => len282 n
  | .len283 n => len283 n
  | .len284 n => len284 n
  | .len285 n => len285 n
  | .llReserved286 => llReserved286
  | .llReserved287 => llReserved287
  | .llInvalid n => llInvalid n
  | .dist0 n => dist0 n
  | .dist1 n => dist1 n
  | .dist2 n => dist2 n
  | .dist3 n => dist3 n
  | .dist4 n => dist4 n
  | .dist5 n => dist5 n
  | .dist6 n => dist6 n
  | .dist7 n => dist7 n
  | .dist8 n => dist8 n
  | .dist9 n => dist9 n
  | .dist10 n => dist10 n
  | .dist11 n => dist11 n
  | .dist12 n => dist12 n
  | .dist13 n => dist13 n
  | .dist14 n => dist14 n
  | .dist15 n => dist15 n
  | .dist16 n => dist16 n
  | .dist17 n => dist17 n
  | .dist18 n => dist18 n
  | .dist19 n => dist19 n
  | .dist20 n => dist20 n
  | .dist21 n => dist21 n
  | .dist22 n => dist22 n
  | .dist23 n => dist23 n
  | .dist24 n => dist24 n
  | .dist25 n => dist25 n
  | .dist26 n => dist26 n
  | .dist27 n => dist27 n
  | .dist28 n => dist28 n
  | .dist29 n => dist29 n
  | .dReserved30 => dReserved30
  | .dReserved31 => dReserved31
  | .dInvalid n => dInvalid n
  | .lenExtra w x => lenExtra w x
  | .distExtra w x => distExtra w x
  | .tLit n v => tLit n v
  | .tLink w n v => tLink w n v
  | .tBase x n v => tBase x n v
  | .tEob n v => tEob n v
  | .tInvalid op n v => tInvalid op n v

end Sys2Proof.Laws.RoundTrip

namespace Sys2Proof.Machine

/-- Settles O3, by the round trip of each constructor. -/
theorem decodeOfEncodeIsIdentity : Obligations.DecodeOfEncodeIsIdentity := by
  unfold Obligations.DecodeOfEncodeIsIdentity
  exact Laws.RoundTrip.statement_all

/-! ### What the decoder answers -/

/-- An operand read from a field of `n` bits has at most `n` bits. -/
theorem ofNat_fieldAt_lt (v lo n w : Nat) : (BitVec.ofNat w (fieldAt v lo n)).toNat < 2 ^ n := by
  rw [BitVec.toNat_ofNat]
  exact (Nat.mod_le _ _).trans_lt (Nat.mod_lt _ (Nat.two_pow_pos n))

theorem decodeCommand_wf (c : Byte) : (decodeCommand c).wf = true := by
  revert c
  decide

theorem decodeHeader_wf (bits : Nat) : (decodeHeader bits).wf = true := by
  unfold decodeHeader
  split <;> rfl

theorem clInstr_wf {c : Nat} {n : BitVec 4} {bits : Nat} {i : Instr} (h : clInstr c n bits = some i) : i.wf = wfClCode n := by
  unfold clInstr at h
  split at h <;> cases h <;> rfl

theorem lenInstr_wf {k : Nat} {n : BitVec 4} {i : Instr} (h : lenInstr k n = some i) : i.wf = wfCode n := by
  unfold lenInstr at h
  split at h <;> cases h <;> rfl

theorem distInstr_wf {k : Nat} {n : BitVec 4} {i : Instr} (h : distInstr k n = some i) : i.wf = wfCode n := by
  unfold distInstr at h
  split at h <;> cases h <;> rfl

/-- The classes of a tag in the order in which R123 decodes it. -/
theorem entryClass_link {op : BitVec 8} {w : BitVec 4} (h : entryClass op = .link w) : 1 ≤ w.toNat ∧ w.toNat = op.toNat := by
  revert w op
  decide

theorem entryClass_invalid {op : BitVec 8} (h : entryClass op = .invalid) : 2 ≤ op.toNat / 16 ∧ op.toNat ≠ 0x20 := by
  revert op
  decide

/-- An entry that is not the one `build` writes where no code leads is a `TENTRY` row (R123, R171). -/
theorem decodeEntry_wf {e : Entry} (h : e.isInvalid = false) : (decodeEntry e).wf = true := by
  unfold decodeEntry
  cases hclass : entryClass e.op with
  | lit | base x | eob => rfl
  | link w => exact decide_eq_true (entryClass_link hclass).1
  | invalid =>
    obtain ⟨hhigh, heob⟩ := entryClass_invalid hclass
    have hnot : (e.op.toNat = 0x40 && 1 ≤ e.bits.toNat && e.val.toNat = 0) = false := h
    simp only [Instr.wf, hnot, decide_eq_true hhigh, bne_iff_ne.mpr heob, Bool.and_true, Bool.not_false]

/-- Only an entry of class INVALID is the one that `build` writes where no code leads. -/
theorem isInvalid_of_class {e : Entry} (h : entryClass e.op ≠ .invalid) : e.isInvalid = false := by
  have hop : e.op.toNat ≠ 0x40 := fun heq => h (by simp [entryClass, heq])
  simp [Entry.isInvalid, hop]

/-- A symbol of its alphabet, or else an entry taken by its class. -/
theorem getD_decodeEntry_wf {o : Option Instr} {e : Entry} (hentry : e.isInvalid = false) (h : ∀ i, o = some i → i.wf = true) :
    (o.getD (decodeEntry e)).wf = true := by
  cases o with
  | none => exact decodeEntry_wf hentry
  | some i => exact h i rfl

theorem decodeCl_wf {e : Entry} (hbits : e.bits.toNat ≤ 7) (bits : Nat) : (decodeCl e bits).wf = true := by
  have hcode (h : 1 ≤ e.bits.toNat) : wfClCode e.bits = true := by simp [wfClCode, h, hbits]
  unfold decodeCl
  cases hclass : entryClass e.op with
  | lit =>
    have hentry := isInvalid_of_class (e := e) (by simp [hclass])
    dsimp only
    split
    · exact getD_decodeEntry_wf hentry fun i hi => (clInstr_wf hi).trans (hcode ‹_›)
    · exact decodeEntry_wf hentry
  | invalid =>
    dsimp only
    split
    · next hinv =>
      simp only [Entry.isInvalid, Bool.and_eq_true, decide_eq_true_eq] at hinv
      exact hcode hinv.1.2
    · next hinv => exact decodeEntry_wf (by simpa using hinv)
  | link w | base x | eob => exact decodeEntry_wf (isInvalid_of_class (by simp [hclass]))

theorem decodeLl_wf (e : Entry) (bits : Nat) : (decodeLl e bits).wf = true := by
  have hentry (h : entryClass e.op ≠ .invalid) := isInvalid_of_class h
  unfold decodeLl
  cases hclass : entryClass e.op with
  | lit | eob =>
    dsimp only
    split
    · next h => exact decide_eq_true h.1
    · exact decodeEntry_wf (hentry (by simp [hclass]))
  | base x =>
    dsimp only
    split
    · next h =>
      refine getD_decodeEntry_wf (hentry (by simp [hclass])) fun i hi => ?_
      obtain ⟨k, -, hk⟩ := Option.bind_eq_some_iff.1 hi
      exact (lenInstr_wf hk).trans (decide_eq_true h)
    · exact decodeEntry_wf (hentry (by simp [hclass]))
  | link w => exact decodeEntry_wf (hentry (by simp [hclass]))
  | invalid =>
    dsimp only
    split
    · next hinv =>
      simp only [Entry.isInvalid, Bool.and_eq_true, decide_eq_true_eq] at hinv
      split
      · rfl
      · split
        · rfl
        · exact decide_eq_true hinv.1.2
    · next hinv => exact decodeEntry_wf (by simpa using hinv)

theorem decodeDist_wf (e : Entry) (bits : Nat) : (decodeDist e bits).wf = true := by
  have hentry (h : entryClass e.op ≠ .invalid) := isInvalid_of_class h
  unfold decodeDist
  cases hclass : entryClass e.op with
  | lit | link w | eob => exact decodeEntry_wf (hentry (by simp [hclass]))
  | base x =>
    dsimp only
    split
    · next h =>
      refine getD_decodeEntry_wf (hentry (by simp [hclass])) fun i hi => ?_
      obtain ⟨k, -, hk⟩ := Option.bind_eq_some_iff.1 hi
      exact (distInstr_wf hk).trans (decide_eq_true h)
    · exact decodeEntry_wf (hentry (by simp [hclass]))
  | invalid =>
    dsimp only
    split
    · repeat' split
      all_goals rfl
    · next hinv =>
      refine decodeEntry_wf ?_
      simp only [Entry.isInvalid, Bool.and_eq_false_iff, decide_eq_false_iff_not]
      tauto

/-- Settles O4, by the decoder state: a field fits its operand, and an entry is a symbol's or a `TENTRY` row. -/
theorem decodedInstructionsAreWellFormed : Obligations.DecodedInstructionsAreWellFormed := by
  unfold Obligations.DecodedInstructionsAreWellFormed
  intro slot e bits hcl hlen hdist
  cases slot with
  | command => exact decodeCommand_wf _
  | header => exact decodeHeader_wf _
  | align n => exact decide_eq_true (ofNat_fieldAt_lt _ _ _ _)
  | dtree => exact decodeCl_wf (hcl rfl) _
  | len => exact decodeLl_wf e _
  | dist => exact decodeDist_wf e _
  | lenext w =>
    have hw := hlen w rfl
    simp only [decode, Instr.wf, hw, decide_true, Bool.true_and, decide_eq_true_eq]
    exact ofNat_fieldAt_lt _ _ _ _
  | distext w =>
    have hw := hdist w rfl
    simp only [decode, Instr.wf, hw, decide_true, Bool.true_and, decide_eq_true_eq]
    exact ofNat_fieldAt_lt _ _ _ _
  | method | flag | dict k | check k | lens | stored | table | btree => rfl

end Sys2Proof.Machine
end

section
/-! SUPPORT. The steps of the two agents: the running engine, a command's start, the host's moves and its loop (R8, R9, R21, R376). -/

namespace Sys2Proof.Machine

/-! ### The engine's turn -/

theorem step_of_idle {s : State} (hbusy : s.busy = false) (hcmd : s.cmd = none) : step s = .next (hostTurn s) := by
  have hidle : ¬s.busy = true := by simp [hbusy]
  rw [step, if_neg hidle, hcmd]

theorem hostTurn_of_move {s : State} {m : HostMove} {r : List HostMove} (h : s.host = m :: r) :
    hostTurn s = hostMove m { s with host := r } := by
  rw [hostTurn, h]

theorem hostTurn_of_loop {s : State} {l : HostLoop} (hhost : s.host = []) (hloop : s.loop = some l) :
    hostTurn s = loopTurn l s := by
  rw [hostTurn, hhost, hloop]

theorem hostTurn_of_none {s : State} (hhost : s.host = []) (hloop : s.loop = none) : hostTurn s = s := by
  rw [hostTurn, hhost, hloop]

/-- Settles O1, by whose turn it is. -/
theorem stepRunsDecodedInstruction : Obligations.StepRunsDecodedInstruction := by
  unfold Obligations.StepRunsDecodedInstruction
  refine ⟨?decoded, ?stopped, fun s m => step_of_micro, fun s c => step_of_command, fun s hbusy hcmd => ?host⟩
  case decoded =>
    rintro s t slot e _ hbusy hselect hfetch rfl
    rw [step_of_element hbusy hselect, hfetch, settle_ok]
  case stopped =>
    intro s t slot r hbusy hselect hfetch
    rw [step_of_element hbusy hselect, hfetch, settle_stop]
  case host =>
    rw [step_of_idle hbusy hcmd]
    exact ⟨fun m r h => congrArg _ (hostTurn_of_move h), fun l hhost hloop => congrArg _ (hostTurn_of_loop hhost hloop),
      fun hhost hloop => congrArg _ (hostTurn_of_none hhost hloop)⟩

/-- Settles O2: each word is decoded by evaluation. -/
theorem wordsDecodeAsSpecified : Obligations.WordsDecodeAsSpecified := by
  unfold Obligations.WordsDecodeAsSpecified
  decide

/-! ### The host's registers (R21) -/

/-- `STATUS` is the byte `CODE` with `BUSY` above it (R24). -/
theorem statusWord_setWidth (s : State) :
    (statusWord s).setWidth 64 = BitVec.ofNat 64 ((if s.busy then 256 else 0) + s.code.toNat) := by
  have hword : ∀ (b : Bool) (c : Byte),
      (BitVec.ofBool b ++ c).setWidth 64 = BitVec.ofNat 64 ((if b then 256 else 0) + c.toNat) := by decide
  exact hword s.busy s.code

/-- A write of a register number that the host does not own changes nothing (R21). -/
theorem hostWrite_of_notOwned {r : BitVec 8} (h : r ∉ [0x00, 0x01, 0x04, 0x05, 0x06, 0x07, 0x0C, 0x0D]) (v : BitVec 64) (s : State) :
    hostWrite r v s = s := by
  have hne (k : Nat) (hk : k ∈ [0x00, 0x01, 0x04, 0x05, 0x06, 0x07, 0x0C, 0x0D]) : r.toNat ≠ k := by
    rintro rfl
    revert r
    decide
  unfold hostWrite
  split
  case h_9 => rfl
  all_goals exact absurd ‹_› (hne _ (by decide))

/-- A read of `CMD` or of a reserved number draws a free value (R21, R22). -/
theorem hostRead_of_free {r : BitVec 8} (h : r = 0x00 ∨ 0x0E ≤ r.toNat) (s : State) : hostRead r s = readFree s := by
  have hne (k : Nat) (hk : 1 ≤ k ∧ k ≤ 0x0D) : r.toNat ≠ k := by
    rcases h with rfl | h
    · exact Nat.ne_of_lt hk.1
    · omega
  unfold hostRead
  split
  case h_14 => rfl
  all_goals exact absurd ‹_› (hne _ (by decide))

/-! ### The host's loop (R376) -/

section Loop
variable {l : HostLoop} {s : State}

theorem loopTurn_boot (h : l.stage = .boot) : loopTurn l s =
    say [.writeReg 0x01 (l.windowBits.setWidth 64), .writeReg 0x00 0x01, .readReg 0x02] { l with stage := .init } s := by
  rw [loopTurn, h]

theorem loopTurn_over (h : l.stage = .over) : loopTurn l s = s := by
  rw [loopTurn, h]

/-! By the stage that waits for a status, and the status. -/

section Status
variable {c : Byte} (hc : (s.hostData.setWidth 8 : Byte) = c)
include hc

theorem loopTurn_init (h : l.stage = .init) : loopTurn l s = if c = 0x00 then loopBind l s else loopEnd [] l s := by
  rw [loopTurn, h, ← hc]
  rfl

theorem loopTurn_step (h : l.stage = .step) : loopTurn l s = loopStatus l c s := by
  rw [loopTurn, h, ← hc]

theorem loopTurn_setDict (h : l.stage = .setDict) : loopTurn l s = if c = 0x00 then sayStep [] l s else loopEnd [] l s := by
  rw [loopTurn, h, ← hc]
  rfl

theorem loopTurn_sync (h : l.stage = .sync) : loopTurn l s = loopSync l c s := by
  rw [loopTurn, h, ← hc]

end Status

theorem loopBind_of_slices {c d : Word × Word} {ri ro : List (Word × Word)} (hin : l.inputs = c :: ri) (hout : l.outputs = d :: ro) :
    loopBind l s = sayStep (bindIn c ++ bindOut d) { l with inputs := ri, outputs := ro, outFrom := d.1 } s := by
  rw [loopBind, hin, hout]

theorem loopBind_of_noSlices (h : l.inputs = [] ∨ l.outputs = []) : loopBind l s = loopEnd [] l s := by
  unfold loopBind
  split
  · next hin hout => simp [hin, hout] at h
  · rfl

theorem loopStatus_of_supply {c : Byte} (h : c = 0x00 ∨ c = 0xFB) : loopStatus l c s = loopSupply (takeOutput l s) s := if_pos h

theorem loopStatus_of_other {c : Byte} (h : c ∉ [0x00, 0xFB, 0x02, 0x01, 0xFD]) : loopStatus l c s = loopEnd [] l s := by
  simp only [List.mem_cons, List.not_mem_nil, or_false, not_or] at h
  obtain ⟨hok, hbuf, hdict, hend, herr⟩ := h
  exact (if_neg (not_or.2 ⟨hok, hbuf⟩)).trans ((if_neg hdict).trans ((if_neg hend).trans (if_neg herr)))

/-! The answer to `OK` and `BUF_ERROR` goes on with step 3 of R376, in which the loop then stands as before. -/

section Supply
variable (hstage : l.stage = .step) {c : Word × Word} {r : List (Word × Word)}

include hstage in
theorem loopSupply_output (hfull : s.availOut = 0) (hout : l.outputs = c :: r) :
    loopSupply l s = say (bindOut c ++ stepMoves l) { l with outputs := r, outFrom := c.1 } s := by
  rw [loopSupply, if_pos hfull, hout, hstage]
  rfl

include hstage in
theorem loopSupply_input (hroom : s.availOut ≠ 0) (hin : l.inputs = c :: r) :
    loopSupply l s = say (bindIn c ++ stepMoves l) { l with inputs := r } s := by
  rw [loopSupply, if_neg hroom, hin, hstage]
  rfl

theorem loopSupply_noOutput (hfull : s.availOut = 0) (hout : l.outputs = []) : loopSupply l s = loopEnd [] l s := by
  rw [loopSupply, if_pos hfull, hout]

theorem loopSupply_noInput (hroom : s.availOut ≠ 0) (hin : l.inputs = []) : loopSupply l s = loopEnd [] l s := by
  rw [loopSupply, if_neg hroom, hin]

end Supply

theorem loopDict_some {c : Word × Word} (h : l.dict = some c) : loopDict l s =
    say [.readReg 0x0B, .writeReg 0x0C (c.1.setWidth 64), .writeReg 0x0D (c.2.setWidth 64), .writeReg 0x00 0x04, .readReg 0x02]
      { l with stage := .setDict } s := by
  rw [loopDict]
  split <;> simp_all

theorem loopDict_none (h : l.dict = none) : loopDict l s = loopEnd [.readReg 0x0B] l s := by
  rw [loopDict]
  split <;> simp_all

section Sync
variable {c : Byte} (hok : c ≠ 0x00) (hrefused : c ≠ 0xFE)
include hok hrefused

theorem loopSync_input {d : Word × Word} {ri : List (Word × Word)} (hin : l.inputs = d :: ri) :
    loopSync l c s = say (bindIn d ++ [.writeReg 0x00 0x05, .readReg 0x02]) { l with inputs := ri } s :=
  (if_neg hok).trans ((if_neg hrefused).trans (by rw [hin]))

theorem loopSync_noInput (hin : l.inputs = []) : loopSync l c s = loopEnd [.writeReg 0x00 0x06] l s :=
  (if_neg hok).trans ((if_neg hrefused).trans (by rw [hin]))

end Sync

end Loop

/-- Settles O5: the registers by their numbers, a stored byte by the memory's laws, the loop by its stage and status. -/
theorem hostRegisterFile : Obligations.HostRegisterFile := by
  unfold Obligations.HostRegisterFile
  intro s v
  refine ⟨rfl, rfl, rfl, rfl, rfl, rfl, rfl, rfl, fun r hr => hostWrite_of_notOwned hr v s, rfl,
    congrArg (fun d => { s with hostData := d }) (statusWord_setWidth s), rfl, rfl, rfl, rfl, rfl, rfl, rfl, rfl, rfl, rfl, rfl,
    fun r hr => ⟨_, hostRead_of_free hr s⟩, fun a b => ?poke, fun l => ?loop⟩
  case poke =>
    exact ⟨⟨_, rfl, Memory.read_write_same _ _ _, fun x hx => Memory.read_write_other _ _ hx⟩,
      ⟨_, rfl, Memory.read_write_same _ _ _, fun x hx => Memory.read_write_other _ _ hx⟩,
      ⟨_, rfl, Memory.read_write_same _ _ _, fun x hx => Memory.read_write_other _ _ hx⟩⟩
  case loop =>
    refine ⟨loopTurn_boot, fun hstage hcode c ri d ro hin hout => ?_, fun hstage hnone => ?_, fun hstage hcode => ?_,
      fun hstage hcode => ?_, fun hstage hcode => ⟨fun c hdict => ?_, fun hdict => ?_⟩, fun hstage hcode => ?_,
      fun hstage hcode => ⟨fun hsync => ?_, fun hsync => ?_⟩, fun hstage hcode => ?_, fun hstage hcode => ?_,
      fun hstage hcode => ?_, fun hstage hcode => ?_, fun hstage hok hrefused => ⟨fun c ri hin => ?_, fun hin => ?_⟩, loopTurn_over⟩
    · rw [loopTurn_init hcode hstage, if_pos rfl, loopBind_of_slices hin hout]
      rfl
    · rw [loopTurn_init rfl hstage, loopBind_of_noSlices hnone, ite_self]
      rfl
    · rw [loopTurn_init rfl hstage]
      exact if_neg hcode
    · rw [loopTurn_step rfl hstage, loopStatus_of_supply hcode]
      exact ⟨fun hfull d ro hout => loopSupply_output (l := takeOutput l s) hstage hfull hout,
        loopSupply_noOutput (l := takeOutput l s), fun hroom c ri hin => loopSupply_input (l := takeOutput l s) hstage hroom hin,
        loopSupply_noInput (l := takeOutput l s)⟩
    · rw [loopTurn_step hcode hstage]
      exact loopDict_some hdict
    · rw [loopTurn_step hcode hstage]
      exact loopDict_none hdict
    · rw [loopTurn_step hcode hstage]
      rfl
    · rw [loopTurn_step hcode hstage]
      exact if_pos hsync
    · rw [loopTurn_step hcode hstage]
      exact if_neg (Bool.eq_false_iff.1 hsync)
    · rw [loopTurn_step rfl hstage]
      exact loopStatus_of_other hcode
    · rw [loopTurn_sync hcode hstage]
      rfl
    · obtain hstage | hstage := hstage
      · rw [loopTurn_setDict hcode hstage, if_pos rfl]
        rfl
      · rw [loopTurn_sync hcode hstage]
        rfl
    · rw [loopTurn_setDict rfl hstage]
      exact if_neg hcode
    · rw [loopTurn_sync rfl hstage]
      exact loopSync_input hok hrefused hin
    · rw [loopTurn_sync rfl hstage]
      exact loopSync_noInput hok hrefused hin

end Sys2Proof.Machine
end

section
/-! SUPPORT. A symbol's row of the opcode table does what the entry's class and value say (R174, R180), and the whole micro-steps
that look a symbol up (R201 to R207, R222 to R232). -/

namespace Sys2Proof.Machine

/-- What follows two operations in a row follows the second. -/
theorem settle_bind {α β : Type} (g : Got α) (k : α → State → Got β) (f : β → State → Host.Outcome State Fault Refusal) :
    settle (g.bind k) f = settle g (fun a t => settle (k a t) f) := by
  cases g <;> rfl

/-! ### The micro-step that looks a symbol up -/

theorem lookupKind_dtree {s : State} (h : s.bmode = .dtree) : lookupKind s = .cl := if_pos h

theorem lookupKind_dist {s : State} (hb : s.bmode ≠ .dtree) (hc : s.cmode = .dist) : lookupKind s = .d :=
  (if_neg hb).trans (if_pos hc)

theorem lookupKind_other {s : State} (hb : s.bmode ≠ .dtree) (hc : s.cmode ≠ .dist) : lookupKind s = .ll :=
  (if_neg hb).trans (if_neg hc)

/-! ### Entries by their class -/

section Class
variable (n w x : BitVec 4) (v : BitVec 16) (op : BitVec 8) (s : State)

theorem exec_tLit_ll (h : lookupKind s = .ll) :
    exec (.tLit n v) s = .next { consume n.toNat s with litv := v.setWidth 8, cmode := .lit } := by
  show execTLit n v s = _
  rw [execTLit, h, takeLiteral, BitVec.ofNat_toNat]

theorem exec_tLit_d (h : lookupKind s = .d) : exec (.tLit n v) s = .next (raiseInvalid .d s) := by
  show execTLit n v s = _
  rw [execTLit, h]

theorem exec_tLit_cl (h : lookupKind s = .cl) : exec (.tLit n v) s = .next (clSymbol v.toNat n s) := by
  show execTLit n v s = _
  rw [execTLit, h]

theorem exec_tLink (h : lookupKind s ≠ .cl) :
    exec (.tLink w n v) s = .next { consume n.toNat s with tptr := v, tneed := w } := by
  show execTLink w n v s = _
  unfold execTLink
  split
  · exact absurd ‹_› h
  · rfl

theorem exec_tLink_cl (h : lookupKind s = .cl) : exec (.tLink w n v) s = .next (raiseInvalid .cl s) := by
  show execTLink w n v s = _
  rw [execTLink, h]

theorem exec_tBase_ll (h : lookupKind s = .ll) :
    exec (.tBase x n v) s = .next { consume n.toNat s with lenr := v.setWidth 9, ext := x, cmode := .lenext } := by
  show execTBase x n v s = _
  rw [execTBase, h, takeLength, BitVec.ofNat_toNat]

theorem exec_tBase_d (h : lookupKind s = .d) :
    exec (.tBase x n v) s = .next { consume n.toNat s with distr := v, ext := x, cmode := .distext } := by
  show execTBase x n v s = _
  rw [execTBase, h, takeDistance]

theorem exec_tBase_cl (h : lookupKind s = .cl) : exec (.tBase x n v) s = .next (raiseInvalid .cl s) := by
  show execTBase x n v s = _
  rw [execTBase, h]

theorem exec_tEob_ll (h : lookupKind s = .ll) : exec (.tEob n v) s = .next { consume n.toNat s with cmode := .wash } := by
  show execTEob n v s = _
  rw [execTEob, h, takeEob]

theorem exec_tEob_other {k : Kind} (hk : k ≠ .ll) (h : lookupKind s = k) : exec (.tEob n v) s = .next (raiseInvalid k s) := by
  show execTEob n v s = _
  unfold execTEob
  split
  · next h' => exact absurd (h.symm.trans h') hk
  · rw [h]

theorem exec_tInvalid {k : Kind} (h : lookupKind s = k) : exec (.tInvalid op n v) s = .next (raiseInvalid k s) := by
  show execTInvalid op n v s = _
  rw [execTInvalid, h]

theorem clSymbol_of_length {c : Nat} (h : c ≤ 15) : clSymbol c n s = putLens n.toNat 1 (BitVec.ofNat 4 c) s := if_pos h

end Class

/-- Settles O28, by the class in each of the three micro-steps. -/
theorem tableEntriesActByClass : Obligations.TableEntriesActByClass := by
  unfold Obligations.TableEntriesActByClass
  refine ⟨fun s w x n v op hb hc => ?len, fun s w x n v op hb hc => ?dist, fun s w x n v op hb => ?dtree⟩
  case len =>
    have hk : lookupKind s = .ll := lookupKind_other (by simp [hb]) (by simp [hc])
    exact ⟨exec_tLit_ll n v s hk, exec_tLink n w v s (by simp [hk]), exec_tBase_ll n x v s hk, exec_tEob_ll n v s hk,
      exec_tInvalid n v op s hk⟩
  case dist =>
    have hk : lookupKind s = .d := lookupKind_dist (by simp [hb]) hc
    refine ⟨exec_tLink n w v s (by simp [hk]), exec_tBase_d n x v s hk, fun i hi => ?_⟩
    fin_cases hi
    · exact exec_tLit_d n v s hk
    · exact exec_tEob_other n v s (by decide) hk
    · exact exec_tInvalid n v op s hk
  case dtree =>
    have hk : lookupKind s = .cl := lookupKind_dtree hb
    refine ⟨fun hv => ?_, fun i hi => ?_⟩
    · rw [exec_tLit_cl n v s hk, clSymbol_of_length n s hv, BitVec.ofNat_toNat]
    · fin_cases hi
      · exact exec_tLink_cl n w v s hk
      · exact exec_tBase_cl n x v s hk
      · exact exec_tEob_other n v s (by decide) hk
      · exact exec_tInvalid n v op s hk

/-! ### A symbol's row says the same as its entry (R168, R180; log 15) -/

/-- A row found in a table is the row looked for. -/
theorem getElem?_of_rowIndex {base ext : Nat} {table : List (Nat × Nat)} {i k : Nat} (h : rowIndex base ext table i = some k) :
    i ≤ k ∧ table[k - i]? = some (base, ext) := by
  induction table generalizing i with
  | nil => cases h
  | cons r rs ih =>
    rw [rowIndex] at h
    split at h
    · next hr =>
      cases h
      simp [← hr.1, ← hr.2]
    · obtain ⟨hle, hget⟩ := ih h
      refine ⟨by omega, ?_⟩
      rw [show k - i = k - (i + 1) + 1 by omega, List.getElem?_cons_succ, hget]

theorem decodeEntry_lit {e : Entry} (h : entryClass e.op = .lit) : decodeEntry e = .tLit e.bits e.val := by rw [decodeEntry, h]

theorem decodeEntry_link {e : Entry} {w : BitVec 4} (h : entryClass e.op = .link w) : decodeEntry e = .tLink w e.bits e.val := by
  rw [decodeEntry, h]

theorem decodeEntry_base {e : Entry} {x : BitVec 4} (h : entryClass e.op = .base x) : decodeEntry e = .tBase x e.bits e.val := by
  rw [decodeEntry, h]

theorem decodeEntry_eob {e : Entry} (h : entryClass e.op = .eob) : decodeEntry e = .tEob e.bits e.val := by rw [decodeEntry, h]

theorem decodeEntry_invalid {e : Entry} (h : entryClass e.op = .invalid) : decodeEntry e = .tInvalid e.op e.bits e.val := by
  rw [decodeEntry, h]

section Rows
variable {s : State} {e : Entry}

/-- A symbol of an alphabet stands for its entry when the instruction does the same. -/
theorem exec_getD_decodeEntry {o : Option Instr} (h : ∀ i, o = some i → exec i s = exec (decodeEntry e) s) :
    exec (o.getD (decodeEntry e)) s = exec (decodeEntry e) s := by
  cases o with
  | none => rfl
  | some i => exact h i rfl

/-- `DTREE`: the symbol's row and the entry do the same (R201 to R205). -/
theorem exec_decodeCl (hk : lookupKind s = .cl) : exec (decodeCl e s.bitb.toNat) s = exec (decodeEntry e) s := by
  unfold decodeCl
  cases hclass : entryClass e.op with
  | lit =>
    dsimp only
    split
    · refine exec_getD_decodeEntry fun i hi => ?_
      rw [exec_clInstr hi, decodeEntry_lit hclass, exec_tLit_cl _ _ _ hk]
    · rfl
  | invalid =>
    dsimp only
    split
    · rw [decodeEntry_invalid hclass, exec_tInvalid _ _ _ _ hk]
      rfl
    · rfl
  | link w | base x | eob => rfl

/-- `LEN`: the symbol's row and the entry do the same (R222 to R227). -/
theorem exec_decodeLl (hk : lookupKind s = .ll) (bits : Nat) : exec (decodeLl e bits) s = exec (decodeEntry e) s := by
  unfold decodeLl
  cases hclass : entryClass e.op with
  | lit =>
    dsimp only
    split
    · rw [decodeEntry_lit hclass, exec_tLit_ll _ _ _ hk, exec_lit, BitVec.ofNat_toNat]
    · rfl
  | base x =>
    dsimp only
    split
    · refine exec_getD_decodeEntry fun i hi => ?_
      obtain ⟨k, hrow, hk'⟩ := Option.bind_eq_some_iff.1 hi
      rw [exec_lenInstr hk', lengthSymbol_of_row (k := k) (getElem?_of_rowIndex hrow).2, decodeEntry_base hclass,
        exec_tBase_ll _ _ _ _ hk, BitVec.ofNat_toNat, BitVec.ofNat_toNat, BitVec.setWidth_eq]
    · rfl
  | eob =>
    dsimp only
    split
    · rw [decodeEntry_eob hclass, exec_tEob_ll _ _ _ hk, exec_eob]
    · rfl
  | link w => rfl
  | invalid =>
    have hinvalid : exec (decodeEntry e) s = .next (raiseCodes 11 s) := by
      rw [decodeEntry_invalid hclass, exec_tInvalid _ _ _ _ hk]
      rfl
    rw [hinvalid]
    dsimp only
    repeat' split
    · rfl
    · rfl
    · rfl
    · exact hinvalid

/-- `DIST`: the symbol's row and the entry do the same (R229 to R232). -/
theorem exec_decodeDist (hk : lookupKind s = .d) (bits : Nat) : exec (decodeDist e bits) s = exec (decodeEntry e) s := by
  unfold decodeDist
  cases hclass : entryClass e.op with
  | base x =>
    dsimp only
    split
    · refine exec_getD_decodeEntry fun i hi => ?_
      obtain ⟨k, hrow, hk'⟩ := Option.bind_eq_some_iff.1 hi
      rw [exec_distInstr hk', distanceSymbol_of_row (k := k) (getElem?_of_rowIndex hrow).2, decodeEntry_base hclass,
        exec_tBase_d _ _ _ _ hk, BitVec.ofNat_toNat, BitVec.ofNat_toNat, BitVec.setWidth_eq, BitVec.setWidth_eq]
    · rfl
  | invalid =>
    have hinvalid : exec (decodeEntry e) s = .next (raiseCodes 12 s) := by
      rw [decodeEntry_invalid hclass, exec_tInvalid _ _ _ _ hk]
      rfl
    rw [hinvalid]
    dsimp only
    repeat' split
    · rfl
    · rfl
    · rfl
    · exact hinvalid
  | lit | link w | eob => rfl

end Rows

/-! ### The micro-steps `LEN` and `DIST` (R222 to R232) -/

section Pulled
variable {s t : State} (h : Pulled s t)
include h

theorem Pulled.mode_eq : t.mode = s.mode := by rw [h]

theorem Pulled.bmode_eq : t.bmode = s.bmode := by rw [h]

theorem Pulled.cmode_eq : t.cmode = s.cmode := by rw [h]

theorem Pulled.lookupKind_eq : lookupKind t = lookupKind s := by rw [lookupKind, h.bmode_eq, h.cmode_eq, lookupKind]

end Pulled

/-- A lookup's answer is executed as the entry it is. -/
theorem step_of_len {s : State} (hbusy : s.busy = true) (hmode : s.mode = .blocks) (hbmode : s.bmode = .codes)
    (hcmode : s.cmode = .len) :
    step s = settle (lookup s.lt s.tptr.toNat s.tneed.toNat s) (fun e t => exec (decodeEntry e) t) := by
  have hselect : select s = .element .len := by rw [select_of_codes hmode hbmode, selectCodes, hcmode]
  rw [step_of_element hbusy hselect]
  refine settle_congr fun e t hlookup => exec_decodeLl ?_ _
  rw [(lookupLoop_pulled hlookup).lookupKind_eq]
  exact lookupKind_other (by simp [hbmode]) (by simp [hcmode])

theorem step_of_dist {s : State} (hbusy : s.busy = true) (hmode : s.mode = .blocks) (hbmode : s.bmode = .codes)
    (hcmode : s.cmode = .dist) :
    step s = settle (lookup s.dt s.tptr.toNat s.tneed.toNat s) (fun e t => exec (decodeEntry e) t) := by
  have hselect : select s = .element .dist := by rw [select_of_codes hmode hbmode, selectCodes, hcmode]
  rw [step_of_element hbusy hselect]
  refine settle_congr fun e t hlookup => exec_decodeDist ?_ _
  rw [(lookupLoop_pulled hlookup).lookupKind_eq]
  exact lookupKind_dist (by simp [hbmode]) hcmode

/-- Settles O29: the symbol's row does what its entry does, and the entry goes by its class. -/
theorem symbolStepsFollowEntry : Obligations.SymbolStepsFollowEntry := by
  unfold Obligations.SymbolStepsFollowEntry
  refine ⟨fun s hbusy hmode hbmode hcmode => ?len, fun s hbusy hmode hbmode hcmode => ?dist⟩
  case len =>
    rw [step_of_len hbusy hmode hbmode hcmode]
    refine settle_congr fun e t hlookup => ?_
    have hk : lookupKind t = .ll := by
      rw [(lookupLoop_pulled hlookup).lookupKind_eq]
      exact lookupKind_other (by simp [hbmode]) (by simp [hcmode])
    cases hclass : entryClass e.op with
    | lit => rw [decodeEntry_lit hclass, exec_tLit_ll _ _ _ hk]
    | eob => rw [decodeEntry_eob hclass, exec_tEob_ll _ _ _ hk]
    | base x => rw [decodeEntry_base hclass, exec_tBase_ll _ _ _ _ hk]
    | link w => rw [decodeEntry_link hclass, exec_tLink _ _ _ _ (by simp [hk])]
    | invalid =>
      rw [decodeEntry_invalid hclass, exec_tInvalid _ _ _ _ hk]
      rfl
  case dist =>
    rw [step_of_dist hbusy hmode hbmode hcmode]
    refine settle_congr fun e t hlookup => ?_
    have hk : lookupKind t = .d := by
      rw [(lookupLoop_pulled hlookup).lookupKind_eq]
      exact lookupKind_dist (by simp [hbmode]) hcmode
    cases hclass : entryClass e.op with
    | base x => rw [decodeEntry_base hclass, exec_tBase_d _ _ _ _ hk]
    | link w => rw [decodeEntry_link hclass, exec_tLink _ _ _ _ (by simp [hk])]
    | lit =>
      rw [decodeEntry_lit hclass, exec_tLit_d _ _ _ hk]
      rfl
    | eob =>
      rw [decodeEntry_eob hclass, exec_tEob_other _ _ _ (by decide) hk]
      rfl
    | invalid =>
      rw [decodeEntry_invalid hclass, exec_tInvalid _ _ _ _ hk]
      rfl

/-! ### The micro-step `DTREE`, decoding (R201 to R205) -/

theorem step_of_dtree {s : State} (hbusy : s.busy = true) (hmode : s.mode = .blocks) (hbmode : s.bmode = .dtree)
    (hindex : s.index.toNat < s.nlen.toNat + s.ndist.toNat) :
    step s = settle (fetchCl s) (fun e t => exec (decodeEntry e) t) := by
  have hselect : select s = .element .dtree := by rw [select_of_blocks hmode, selectBlock, hbmode, if_pos hindex]
  rw [step_of_element hbusy hselect]
  refine settle_congr fun e t hfetch => exec_decodeCl ?_
  rw [(fetchCl_pulled hfetch).lookupKind_eq]
  exact lookupKind_dtree hbmode

theorem clExtra_of_not_lit {e : Entry} (h : entryClass e.op ≠ .lit) : clExtra e = 0 := by
  unfold clExtra
  split
  · exact absurd ‹_› h
  · rfl

theorem clExtra_of_lit {e : Entry} (h : entryClass e.op = .lit) :
    clExtra e = if e.val.toNat = 16 then 2 else if e.val.toNat = 17 then 3 else if e.val.toNat = 18 then 7 else 0 := by
  rw [clExtra, h]

/-- An entry that is no code-length symbol is error 15 in `DTREE` (R180, R205). -/
theorem exec_decodeEntry_cl_of_not_lit {e : Entry} {s : State} (hk : lookupKind s = .cl) (h : entryClass e.op ≠ .lit) :
    exec (decodeEntry e) s = .next (raise 15 { s with bmode := .bbad }) := by
  cases hclass : entryClass e.op with
  | lit => exact absurd hclass h
  | link w => rw [decodeEntry_link hclass, exec_tLink_cl _ _ _ _ hk]; rfl
  | base x => rw [decodeEntry_base hclass, exec_tBase_cl _ _ _ _ hk]; rfl
  | eob => rw [decodeEntry_eob hclass, exec_tEob_other _ _ _ (by decide) hk]; rfl
  | invalid => rw [decodeEntry_invalid hclass, exec_tInvalid _ _ _ _ hk]; rfl

theorem exec_decodeEntry_cl_of_lit {e : Entry} {s : State} (hk : lookupKind s = .cl) (h : entryClass e.op = .lit) :
    exec (decodeEntry e) s = .next (clSymbol e.val.toNat e.bits s) := by
  rw [decodeEntry_lit h, exec_tLit_cl _ _ _ hk]

/-- The entry of a code-length symbol is fetched with its extra bits, whose number goes by the symbol (R201, R202). -/
theorem settle_fetchCl (s : State) (f : Entry → State → Host.Outcome State Fault Refusal) :
    settle (fetchCl s) f = settle (lookup s.ct 0 7 s) (fun e t =>
      if clExtra e = 0 then f e t else settle (needBits (e.bits.toNat + clExtra e) t) (fun _ u => f e u)) := by
  rw [fetchCl, settle_bind]
  refine settle_congr fun e t _ => ?_
  split
  · rfl
  · rw [settle_bind]
    rfl

/-- What a lookup answers stands in the table, or is the invalid entry beyond it (log 4). -/
theorem lookup_mem {tab : List Entry} {base width : Nat} {s t : State} {e : Entry} (h : lookup tab base width s = .ok e t) :
    e ∈ tab ∨ e = Entry.invalid := by
  have hgetD (i : Nat) : tab.getD i Entry.invalid ∈ tab ∨ tab.getD i Entry.invalid = Entry.invalid := by
    rw [List.getD_eq_getElem?_getD]
    cases hget : tab[i]? with
    | none => exact .inr rfl
    | some e => exact .inl (List.mem_of_getElem? hget)
  unfold lookup at h
  generalize 2 = k at h
  induction k generalizing s with
  | zero =>
    cases h
    exact hgetD _
  | succ k ih =>
    simp only [lookupLoop] at h
    split at h
    · cases h
      exact hgetD _
    · obtain ⟨_, u, -, hrest⟩ := Got.bind_ok h
      exact ih hrest

/-- Settles O22: the entry is fetched with its extra bits, and goes by its class and value. -/
theorem codeLengthStepFollowsEntry : Obligations.CodeLengthStepFollowsEntry := by
  unfold Obligations.CodeLengthStepFollowsEntry
  intro s hbusy hmode hbmode hindex hct
  rw [step_of_dtree hbusy hmode hbmode hindex, settle_fetchCl]
  refine settle_congr fun e t hlookup => ?_
  have hkind {u : State} (hu : Pulled t u) : lookupKind u = .cl := by
    rw [hu.lookupKind_eq, (lookupLoop_pulled hlookup).lookupKind_eq]
    exact lookupKind_dtree hbmode
  by_cases hclass : entryClass e.op = .lit
  · have hval : e.val.toNat ≤ 18 := by
      obtain hmem | rfl := lookup_mem hlookup
      · exact hct e hmem hclass
      · exact absurd hclass (by decide)
    have hextra (x : Nat) (hx : clExtra e = x + 1) (f : State → State)
        (hf : ∀ u, Pulled t u → clSymbol e.val.toNat e.bits u = f u) :
        (if clExtra e = 0 then exec (decodeEntry e) t
          else settle (needBits (e.bits.toNat + clExtra e) t) fun _ u => exec (decodeEntry e) u) =
        settle (needBits (e.bits.toNat + (x + 1)) t) fun _ u => .next (f u) := by
      rw [hx, if_neg (Nat.succ_ne_zero x)]
      refine settle_congr fun _ u hneed => ?_
      have hu : Pulled t u := pulls_ok_pulled hneed
      rw [exec_decodeEntry_cl_of_lit (hkind hu) hclass, hf u hu]
    rw [if_neg (not_not.2 hclass)]
    have hcases : e.val.toNat ≤ 15 ∨ e.val.toNat = 16 ∨ e.val.toNat = 17 ∨ e.val.toNat = 18 := by omega
    obtain hv | hv | hv | hv := hcases
    · have hzero : clExtra e = 0 := by
        rw [clExtra_of_lit hclass, if_neg (by omega), if_neg (by omega), if_neg (by omega)]
      rw [if_pos hzero, if_pos hv, exec_decodeEntry_cl_of_lit (hkind (.refl t)) hclass, clSymbol_of_length _ _ hv]
    · rw [hextra 1 (by simp [clExtra_of_lit hclass, hv])
        (fun u => clRepeat (e.bits.toNat + 2) (3 + u.bitb.toNat / 2 ^ e.bits.toNat % 4) u)
        fun u _ => by simp [clSymbol, hv, fieldAt]]
      simp [hv]
    · rw [hextra 2 (by simp [clExtra_of_lit hclass, hv])
        (fun u => clZeros (e.bits.toNat + 3) (3 + u.bitb.toNat / 2 ^ e.bits.toNat % 8) u)
        fun u _ => by simp [clSymbol, hv, fieldAt]]
      simp [hv]
    · rw [hextra 6 (by simp [clExtra_of_lit hclass, hv])
        (fun u => clZeros (e.bits.toNat + 7) (11 + u.bitb.toNat / 2 ^ e.bits.toNat % 128) u) fun u _ => by simp [clSymbol, hv, fieldAt]]
      simp [hv]
  · rw [clExtra_of_not_lit hclass, if_pos rfl, if_pos hclass, exec_decodeEntry_cl_of_not_lit (hkind (.refl t)) hclass]

end Sys2Proof.Machine
end

section
/-! SUPPORT. The block parser's other elements: the stored byte, the code lengths, the table builds, the end of the blocks (R197 to
R208), and the extra bits of a symbol (R228, R233). -/

namespace Sys2Proof.Machine

/-! ### The stored byte (R197) -/

theorem exec_raw_of_free {b : Byte} {s : State} (h : s.pend.toNat ≠ wsize s) :
    exec (.raw b) s = .next
      { consume 8 (winWrite b s) with
        left := s.left - 1, bmode := if s.left = 1 then (if s.last then .dry else .type) else s.bmode } := by
  have hlast : s.left - 1 = 0 ↔ s.left = 1 := sub_eq_zero
  show execRaw b s = _
  simp only [execRaw, room_of_free h, settle_ok, consume_left, winWrite_left, hlast]
  rfl

theorem decode_stored (e : Entry) (bits : Word) : decode .stored e bits = .raw (BitVec.ofNat 8 bits.toNat) := by
  rw [decode, ofNat_fieldAt, pow_zero, Nat.div_one]

/-- Settles O17: the micro-step asks for room, then for eight bits. -/
theorem storedByteIsCopied : Obligations.StoredByteIsCopied := by
  unfold Obligations.StoredByteIsCopied
  refine ⟨fun b s hfree => exec_raw_of_free hfree, fun s hbusy hmode hbmode => ?_⟩
  have hselect : select s = .element .stored := by rw [select_of_blocks hmode, selectBlock, hbmode]
  rw [step_of_element hbusy hselect, fetch, settle_bind]
  simp only [settle_fetchBits, decode_stored]

/-! ### The code lengths of a dynamic block (R199 to R204) -/

theorem decode_btree (e : Entry) (bits : Word) : decode .btree e bits = .cll (BitVec.ofNat 3 bits.toNat) := by
  rw [decode, ofNat_fieldAt, pow_zero, Nat.div_one]

/-- Settles O19, by the one place that the write names. -/
theorem codeLengthCodeLengthIsStored : Obligations.CodeLengthCodeLengthIsStored := by
  unfold Obligations.CodeLengthCodeLengthIsStored
  refine ⟨fun l s => ⟨_, rfl, fun i => ?_, rfl⟩, fun s hbusy hmode hbmode hindex => ?_⟩
  · refine (Vector.getElem_setIfInBounds i.isLt).trans (if_congr eq_comm rfl rfl)
  · have hselect : select s = .element .btree := by rw [select_of_blocks hmode, selectBlock, hbmode, if_pos hindex]
    rw [step_of_field hbusy hselect rfl]
    simp only [decode_btree]

/-- A run of lengths is stored from its first index on, and nowhere else. -/
theorem getElem_fillLens (v : BitVec 4) (j i : Nat) (t : Vector (BitVec 4) 316) {k : Nat} (hk : k < 316) :
    (fillLens v j i t)[k] = if i ≤ k ∧ k < i + j then v else t[k] := by
  induction j generalizing i t with
  | zero => exact (if_neg (by omega)).symm
  | succ j ih =>
    rw [fillLens, ih, Vector.getElem_setIfInBounds hk]
    grind

theorem exec_clLength {i : Instr} {n : BitVec 4} {c : Nat} {s : State} (hc : c ≤ 15) (h : clInstr c n s.bitb.toNat = some i) :
    exec i s = .next (putLens n.toNat 1 (BitVec.ofNat 4 c) s) := by
  rw [exec_clInstr h, clSymbol_of_length _ _ hc]

/-- Settles O20: each symbol stores the one length that is its number. -/
theorem codeLengthSymbolsStoreLengths : Obligations.CodeLengthSymbolsStoreLengths := by
  unfold Obligations.CodeLengthSymbolsStoreLengths
  intro n s p hp
  have hsymbol : p.2 ≤ 15 ∧ clInstr p.2 n s.bitb.toNat = some p.1 := by
    fin_cases hp <;> exact ⟨Nat.le_of_ble_eq_true rfl, rfl⟩
  refine ⟨_, exec_clLength hsymbol.1 hsymbol.2, fun i => ?_, rfl⟩
  exact (getElem_fillLens _ _ _ _ i.isLt).trans (if_congr (by omega) rfl rfl)

theorem lensFit_iff (j : Nat) (s : State) : lensFit j s = true ↔ s.index.toNat + j ≤ s.nlen.toNat + s.ndist.toNat :=
  decide_eq_true_iff

theorem clZeros_of_fit {w j : Nat} {s : State} (h : s.index.toNat + j ≤ s.nlen.toNat + s.ndist.toNat) :
    clZeros w j s = putLens w j 0 s := if_pos ((lensFit_iff j s).2 h)

theorem clZeros_of_passes {w j : Nat} {s : State} (h : s.nlen.toNat + s.ndist.toNat < s.index.toNat + j) :
    clZeros w j s = raise 8 { s with bmode := .bbad } := if_neg (mt (lensFit_iff j s).1 h.not_ge)

theorem clRepeat_of_fit {w j : Nat} {s : State} (hprev : 1 ≤ s.index.toNat)
    (h : s.index.toNat + j ≤ s.nlen.toNat + s.ndist.toNat) :
    clRepeat w j s = putLens w j (s.lens.toList.getD (s.index.toNat - 1) 0) s :=
  if_neg (by simp [(lensFit_iff j s).2 h, show s.index.toNat ≠ 0 by omega])

theorem clRepeat_of_error {w j : Nat} {s : State} (h : s.index.toNat = 0 ∨ s.nlen.toNat + s.ndist.toNat < s.index.toNat + j) :
    clRepeat w j s = raise 8 { s with bmode := .bbad } := by
  refine if_pos ?_
  have hfit : lensFit j s = true → s.index.toNat + j ≤ s.nlen.toNat + s.ndist.toNat := (lensFit_iff j s).1
  by_cases hj : lensFit j s = true
  · have hzero : s.index.toNat = 0 := h.resolve_right (hfit hj).not_gt
    simp [hzero]
  · simp [Bool.not_eq_true _ ▸ hj]

/-- A run that fits is stored, and `INDEX` counts it (R202). -/
theorem putLens_spec (w j : Nat) (v : BitVec 4) (s : State) (h : s.index.toNat + j < 512) :
    (putLens w j v s).index.toNat = s.index.toNat + j ∧
    (∀ k : Fin 316, (putLens w j v s).lens[k] = if s.index.toNat ≤ k.val ∧ k.val < s.index.toNat + j then v else s.lens[k]) ∧
    putLens w j v s = { consume w s with lens := (putLens w j v s).lens, index := (putLens w j v s).index } := by
  have hj : (BitVec.ofNat 9 j).toNat = j := Nat.mod_eq_of_lt (by omega)
  refine ⟨?_, fun k => getElem_fillLens _ _ _ _ k.isLt, rfl⟩
  show (s.index + BitVec.ofNat 9 j).toNat = _
  rw [BitVec.toNat_add_of_lt (by rw [hj]; omega), hj]

theorem exec_clRep (n : BitVec 4) (x : BitVec 2) (s : State) :
    exec (.clRep n x) s = .next (clRepeat (n.toNat + 2) (3 + x.toNat) s) := rfl

theorem exec_clZrep3 (n : BitVec 4) (x : BitVec 3) (s : State) :
    exec (.clZrep3 n x) s = .next (clZeros (n.toNat + 3) (3 + x.toNat) s) := rfl

theorem exec_clZrep11 (n : BitVec 4) (x : BitVec 7) (s : State) :
    exec (.clZrep11 n x) s = .next (clZeros (n.toNat + 7) (11 + x.toNat) s) := rfl

/-- Settles O21, by the symbol: 16 repeats, 17 and 18 write zeros. -/
theorem repeatsStoreRunsOfLengths : Obligations.RepeatsStoreRunsOfLengths := by
  unfold Obligations.RepeatsStoreRunsOfLengths
  intro n s hcounts i w j v prev hi
  obtain ⟨x, rfl, rfl, rfl, rfl, rfl⟩ | ⟨x, rfl, rfl, rfl, rfl, rfl⟩ | ⟨x, rfl, rfl, rfl, rfl, rfl⟩ := hi
  · rw [exec_clRep]
    refine ⟨fun herror => ?_, fun hprev hfit => ?_⟩
    · rw [clRepeat_of_error (herror.imp_left And.right)]
    · exact ⟨_, congrArg _ (clRepeat_of_fit (hprev rfl) hfit), putLens_spec _ _ _ _ (by omega)⟩
  · rw [exec_clZrep3]
    refine ⟨fun herror => ?_, fun _ hfit => ?_⟩
    · rw [clZeros_of_passes (herror.resolve_left (by simp))]
    · exact ⟨_, congrArg _ (clZeros_of_fit hfit), putLens_spec _ _ _ _ (by omega)⟩
  · rw [exec_clZrep11]
    refine ⟨fun herror => ?_, fun _ hfit => ?_⟩
    · rw [clZeros_of_passes (herror.resolve_left (by simp))]
    · exact ⟨_, congrArg _ (clZeros_of_fit hfit), putLens_spec _ _ _ _ (by omega)⟩

/-! ### The table builds (R200, R206) -/

theorem microBuildCl_of_ok {s : State} {t : List Entry} (h : build (clLens s) 7 .cl = .ok t) :
    microBuildCl s = { s with ct := t, index := 0, bmode := .dtree } := by
  unfold microBuildCl
  split
  · next t' h' => cases h'.symm.trans h; rfl
  · next h' => exact absurd h (h' t)

theorem microBuildCl_of_not_ok {s : State} (h : ∀ t, build (clLens s) 7 .cl ≠ .ok t) : microBuildCl s = raiseBlock 7 s := by
  unfold microBuildCl
  split
  · next t h' => exact absurd h' (h t)
  · rfl

theorem microBuildCodes_of_ok {s : State} {t : List Entry} (h : build (lensSlice 0 s.nlen.toNat s) 9 .ll = .ok t) :
    microBuildCodes s = buildDistance t s := by
  unfold microBuildCodes
  split
  · next t' h' => cases h'.symm.trans h; rfl
  · next h' => exact absurd h (h' t)

theorem microBuildCodes_of_not_ok {s : State} (h : ∀ t, build (lensSlice 0 s.nlen.toNat s) 9 .ll ≠ .ok t) :
    microBuildCodes s = raiseBlock 9 s := by
  unfold microBuildCodes
  split
  · next t h' => exact absurd h' (h t)
  · rfl

/-- An empty distance set is accepted (R206). -/
theorem buildDistance_of_table {s : State} {u : List Entry} (lt : List Entry)
    (h : build (lensSlice s.nlen.toNat s.ndist.toNat s) 6 .d = .ok u ∨ build (lensSlice s.nlen.toNat s.ndist.toNat s) 6 .d = .empty u) :
    buildDistance lt s = { s with lt := lt, dt := u, lbits := 9, dbits := 6, bmode := .codes, cmode := .start } := by
  rw [buildDistance, show Config.droot = 6 from rfl]
  obtain h | h := h <;> rw [h] <;> rfl

theorem buildDistance_of_refused {s : State} (lt : List Entry)
    (h : build (lensSlice s.nlen.toNat s.ndist.toNat s) 6 .d = .over ∨
      build (lensSlice s.nlen.toNat s.ndist.toNat s) 6 .d = .incomplete) :
    buildDistance lt s = raiseBlock 10 s := by
  rw [buildDistance, show Config.droot = 6 from rfl]
  obtain h | h := h <;> rw [h]

theorem step_of_buildCl {s : State} (hbusy : s.busy = true) (hmode : s.mode = .blocks) (hbmode : s.bmode = .btree)
    (hindex : s.nclen.toNat ≤ s.index.toNat) : step s = .next (microBuildCl s) := by
  have hselect : select s = .micro .buildCl := by rw [select_of_blocks hmode, selectBlock, hbmode, if_neg hindex.not_gt]
  exact step_of_micro hbusy hselect

theorem step_of_buildCodes {s : State} (hbusy : s.busy = true) (hmode : s.mode = .blocks) (hbmode : s.bmode = .dtree)
    (hindex : s.nlen.toNat + s.ndist.toNat ≤ s.index.toNat) : step s = .next (microBuildCodes s) := by
  have hselect : select s = .micro .buildCodes := by rw [select_of_blocks hmode, selectBlock, hbmode, if_neg hindex.not_gt]
  exact step_of_micro hbusy hselect

/-- Settles O23, by the two builds and what each answers. -/
theorem dynamicTablesAreBuilt : Obligations.DynamicTablesAreBuilt := by
  unfold Obligations.DynamicTablesAreBuilt
  constructor
  · intro s hbusy hmode hbmode hindex
    rw [step_of_buildCl hbusy hmode hbmode hindex]
    exact ⟨fun t ht => congrArg _ (microBuildCl_of_ok ht), fun ht => congrArg _ (microBuildCl_of_not_ok ht)⟩
  · intro s hbusy hmode hbmode hindex ll d
    rw [step_of_buildCodes hbusy hmode hbmode hindex]
    refine ⟨fun ht => congrArg _ (microBuildCodes_of_not_ok ht), fun t ht hd => ?_, fun t u ht hd => ?_⟩
    · rw [microBuildCodes_of_ok ht, buildDistance_of_refused t hd]
      rfl
    · rw [microBuildCodes_of_ok ht, buildDistance_of_table t hd]

/-! ### The end of the blocks (R208, R295) -/

theorem exec_align_of_done {s : State} (h : s.bmode = .bdone) (n : BitVec 3) (pad : BitVec 7) :
    exec (.align n pad) s = .next { alignBits s with wasw := s.adler, mode := .check4 } := if_pos h

theorem exec_align_of_other {s : State} (h : s.bmode ≠ .bdone) (n : BitVec 3) (pad : BitVec 7) :
    exec (.align n pad) s = .next { alignBits s with bmode := .lens } := if_neg h

theorem step_of_bdone {s : State} (hbusy : s.busy = true) (hmode : s.mode = .blocks) (hbmode : s.bmode = .bdone) :
    step s = .next (if s.nowrap then { s with mode := .done } else { alignBits s with wasw := s.adler, mode := .check4 }) := by
  by_cases hraw : s.nowrap = true
  · have hselect : select s = .micro .bdoneRaw := by rw [select_of_blocks hmode, selectBlock, hbmode, if_pos hraw]
    rw [step_of_micro hbusy hselect, if_pos hraw]
    rfl
  · have hselect : select s = .element (.align (BitVec.ofNat 3 (s.bitk.toNat % 8))) := by
      rw [select_of_blocks hmode, selectBlock, hbmode, if_neg hraw]
    rw [step_of_element hbusy hselect, if_neg hraw]
    exact if_pos hbmode

/-- Settles O24: the drain, the two wrappers, and the row ALIGN by itself. -/
theorem lastBlockDrainsAndEnds : Obligations.LastBlockDrainsAndEnds := by
  unfold Obligations.LastBlockDrainsAndEnds
  refine ⟨fun s hbusy hmode hbmode => ?_, fun s => step_of_bdone,
    fun n pad s => ⟨fun h => exec_align_of_done h n pad, fun h => exec_align_of_other h n pad⟩⟩
  have hselect : select s = .micro .dry := by rw [select_of_blocks hmode, selectBlock, hbmode]
  rw [step_of_micro hbusy hselect, runMicro, microDry, drain_eq]

/-! ### Codeless patterns, and extra bits -/

/-- Settles O27: each of these rows raises its alphabet's error. -/
theorem codelessPatternsRaise : Obligations.CodelessPatternsRaise := by
  unfold Obligations.CodelessPatternsRaise
  refine fun n s => ⟨rfl, fun i hi => ?_, fun i hi => ?_⟩ <;> fin_cases hi <;> rfl

theorem exec_lenExtra (w : BitVec 4) (x : BitVec 15) (s : State) :
    exec (.lenExtra w x) s = .next
      { consume w.toNat s with
        lenr := BitVec.ofNat 9 (s.lenr.toNat + x.toNat), tptr := 0, tneed := s.dbits, cmode := .dist } := rfl

theorem exec_distExtra (w : BitVec 4) (x : BitVec 15) (s : State) :
    exec (.distExtra w x) s = .next
      { consume w.toNat s with distr := BitVec.ofNat 16 (s.distr.toNat + x.toNat), cmode := .copy } := rfl

/-- Extra bits are a field as wide as the register `EXT` says (R228, R233). -/
theorem ofNat_fieldAt_zero (v n w : Nat) : BitVec.ofNat w (fieldAt v 0 n) = BitVec.ofNat w (v % 2 ^ n) := by
  rw [fieldAt, pow_zero, Nat.div_one]

/-- Settles O30: the field is as wide as `EXT` says. -/
theorem extraBitsAddToBase : Obligations.ExtraBitsAddToBase := by
  unfold Obligations.ExtraBitsAddToBase
  refine ⟨fun w x s => ⟨exec_lenExtra w x s, exec_distExtra w x s⟩, fun s hbusy hmode hbmode => ⟨fun hcmode => ?_, fun hcmode => ?_⟩⟩
  · have hselect : select s = .element (.lenext s.ext) := by rw [select_of_codes hmode hbmode, selectCodes, hcmode]
    rw [step_of_field hbusy hselect rfl]
    simp only [decode, ofNat_fieldAt_zero]
  · have hselect : select s = .element (.distext s.ext) := by rw [select_of_codes hmode hbmode, selectCodes, hcmode]
    rw [step_of_field hbusy hselect rfl]
    simp only [decode, ofNat_fieldAt_zero]

end Sys2Proof.Machine
end

section
/-! SUPPORT. The flag byte, the modes that stop at once, and STEP's entry checks (R287 to R299). -/

namespace Sys2Proof.Machine

theorem exec_flg_of_error {f : Byte} {s : State} (h : (s.methodr.toNat * 256 + f.toNat) % 31 ≠ 0) :
    exec (.flg f) s = .next (raise 3 s) := if_pos h

theorem exec_flg_of_check {f : Byte} {s : State} (h : (s.methodr.toNat * 256 + f.toNat) % 31 = 0) :
    exec (.flg f) s = .next
      { consume 8 s with
        wbits := BitVec.ofNat 4 (s.methodr.toNat / 16 + 8), wr := 0, rd := 0, pend := 0, whave := 0
        mode := if f.toNat / 32 % 2 = 1 then .dict4 else .blocks } := by
  have hsize : fieldAt s.methodr.toNat 4 4 = s.methodr.toNat / 16 := Nat.mod_eq_of_lt (by omega)
  have hdict : fieldAt f.toNat 5 1 = f.toNat / 32 % 2 := rfl
  show execFlg f s = _
  rw [execFlg, if_neg (not_not.2 h), hsize, hdict]
  rfl

/-- Settles O41, by the header check. -/
theorem flagByteIsChecked : Obligations.FlagByteIsChecked := by
  unfold Obligations.FlagByteIsChecked
  refine ⟨fun f s => ⟨exec_flg_of_error, exec_flg_of_check⟩, fun s hbusy hmode => ?_⟩
  have hselect : select s = .element .flag := by rw [select, hmode]
  exact step_of_byte hbusy hselect rfl fun _ => rfl

/-- Settles O44: each mode selects its stop. -/
theorem terminalModesStop : Obligations.TerminalModesStop := by
  unfold Obligations.TerminalModesStop
  have hstep {s : State} {m : Micro} (hbusy : s.busy = true) (h : select s = .micro m) : step s = runMicro m s :=
    step_of_micro hbusy h
  refine fun s hbusy => ⟨fun hmode => ?_, fun hmode => ?_, fun hmode => ?_⟩
  · rw [hstep (m := .dict0) hbusy (by rw [select, hmode])]
    rfl
  · rw [hstep (m := .done) hbusy (by rw [select, hmode])]
    rfl
  · rw [hstep (m := .bad) hbusy (by rw [select, hmode])]
    rfl

/-! ### STEP's entry checks (R288, R289) -/

theorem flushModeLegal_iff (a : Byte) : flushModeLegal a = true ↔ ¬(a ≠ 0 ∧ a ≠ 2 ∧ a ≠ 4) := by
  revert a
  decide

theorem wraps_iff (s : State) : (inWraps s || outWraps s) = true ↔
    2 ^ 32 < s.nextIn.toNat + s.availIn.toNat ∨ 2 ^ 32 < s.nextOut.toNat + s.availOut.toNat := by
  rw [Bool.or_eq_true, inWraps, outWraps, decide_eq_true_iff, decide_eq_true_iff]
  rfl

/-- The checks before the mode: the slices bound, the flush mode legal, the slices not wrapping (R288). -/
theorem exec_stepCmd_of_refused {s : State} (hown : s.own = true)
    (h : (!s.inBound || !s.outBound) = true ∨ (!flushModeLegal s.arg) = true ∨ (inWraps s || outWraps s) = true) :
    exec .stepCmd s = .next (ret .streamError s) := by
  refine (if_pos hown).trans ?_
  by_cases hbound : (!s.inBound || !s.outBound) = true
  · exact if_pos hbound
  · refine (if_neg hbound).trans ?_
    by_cases hlegal : (!flushModeLegal s.arg) = true
    · exact if_pos hlegal
    · exact (if_neg hlegal).trans (if_pos ((h.resolve_left hbound).resolve_left hlegal))

/-- Settles O48, by the checks in their order and then the mode. -/
theorem stepChecksAtEntry : Obligations.StepChecksAtEntry := by
  unfold Obligations.StepChecksAtEntry
  intro s hown unbound illegal wraps
  have hunbound : (!s.inBound || !s.outBound) = true ↔ unbound := by simp [unbound]
  have hillegal : (!flushModeLegal s.arg) = true ↔ illegal := by
    rw [Bool.not_eq_true', ← Bool.not_eq_true, flushModeLegal_iff, not_not]
  have hwraps := wraps_iff s
  refine ⟨fun h => exec_stepCmd_of_refused hown (by rwa [hunbound, hillegal, hwraps]), fun hu hi hw => ?_⟩
  have hpassed : exec .stepCmd s = match s.mode with
      | .bad => .next (ret .dataError { s with flushr := s.arg })
      | .done => .next (ret .streamEnd { s with flushr := s.arg })
      | .dict0 => .next (ret .needDict { s with flushr := s.arg })
      | _ => .next { s with flushr := s.arg, busy := true, entryIn := s.availIn, entryOut := s.availOut } :=
    (if_pos hown).trans ((if_neg (mt hunbound.1 hu)).trans ((if_neg (mt hillegal.1 hi)).trans (if_neg (mt hwraps.1 hw))))
  rw [hpassed]
  refine ⟨fun hmode => by rw [hmode]; rfl, fun hmode => by rw [hmode]; rfl, fun hmode => by rw [hmode]; rfl,
    fun hbad hdone hdict => ?_⟩
  split
  · exact absurd ‹_› hbad
  · exact absurd ‹_› hdone
  · exact absurd ‹_› hdict
  · rfl

end Sys2Proof.Machine
end

section
/-! SUPPORT. The bit reader: what pulls leave in the accumulator, and when they stop (R141 to R145). -/

namespace Sys2Proof.Machine

/-! ### One byte above the bits held (R141) -/

/-- A byte put above `k` bits takes nothing from them and adds itself at their place. -/
theorem toNat_or_shiftLeft {w : Word} {b : Byte} {k : Nat} (hw : w.toNat < 2 ^ k) (hk : k ≤ 24) :
    (w ||| (b.setWidth 32 <<< k)).toNat = w.toNat + b.toNat * 2 ^ k := by
  have hb : b.toNat * 2 ^ k < 2 ^ 32 :=
    calc b.toNat * 2 ^ k < 2 ^ 8 * 2 ^ k := Nat.mul_lt_mul_of_pos_right b.isLt (Nat.two_pow_pos k)
      _ ≤ 2 ^ 8 * 2 ^ 24 := Nat.mul_le_mul_left _ (Nat.pow_le_pow_right two_pos hk)
  have hset : (b.setWidth 32).toNat = b.toNat := BitVec.toNat_setWidth_of_le (by decide)
  rw [BitVec.toNat_or, BitVec.toNat_shiftLeft, hset, Nat.shiftLeft_eq, Nat.mod_eq_of_lt hb, Nat.or_comm, Nat.mul_comm,
    ← Nat.two_pow_add_eq_or_of_lt hw, Nat.add_comm]

theorem accept_bitk_toNat (b : Byte) {s : State} (h : s.bitk.toNat + 8 < 64) : (accept b s).bitk.toNat = s.bitk.toNat + 8 :=
  BitVec.toNat_add_of_lt (y := 8) h

theorem pull_of_empty {s : State} (h : s.availIn = 0) : pull s = .stop .needIn s := if_pos h

theorem pull_of_byte {s : State} {b : Byte} (h : s.availIn ≠ 0) (hread : s.memIn.read s.nextIn.toNat = some b) :
    pull s = .ok () (advanceIn (accept b s)) := by
  rw [pull, if_neg h, hread]

/-- Settles O7: the byte's place is that of bit `BITK`. -/
theorem pullTakesOneByte : Obligations.PullTakesOneByte := by
  unfold Obligations.PullTakesOneByte
  refine ⟨fun s => pull_of_empty, fun s b havail hread hstale hk => ⟨?_, ?_⟩⟩
  · have hbitb : (accept b s).bitb = BitVec.ofNat 32 (s.bitb.toNat + b.toNat * 2 ^ s.bitk.toNat) := by
      rw [accept_bitb, ← toNat_or_shiftLeft hstale hk, BitVec.ofNat_toNat, BitVec.setWidth_eq]
    have hbitk : (accept b s).bitk = BitVec.ofNat 6 (s.bitk.toNat + 8) := by
      rw [← accept_bitk_toNat b (by omega), BitVec.ofNat_toNat, BitVec.setWidth_eq]
    rw [pull_of_byte havail hread, ← hbitb, ← hbitk]
    rfl
  · have hb : b.toNat + 1 ≤ 2 ^ 8 := b.isLt
    calc s.bitb.toNat + b.toNat * 2 ^ s.bitk.toNat < 2 ^ s.bitk.toNat + b.toNat * 2 ^ s.bitk.toNat := by omega
      _ = (b.toNat + 1) * 2 ^ s.bitk.toNat := by ring
      _ ≤ 2 ^ 8 * 2 ^ s.bitk.toNat := Nat.mul_le_mul_right _ hb
      _ = 2 ^ (s.bitk.toNat + 8) := by ring

/-! ### Pulls in a row -/

theorem pulls_one (s : State) : pulls 1 s = pull s := by
  show (pull s).bind (fun _ t => .ok () t) = pull s
  cases pull s <;> rfl

theorem Got.bind_assoc {α β γ : Type} (g : Got α) (k : α → State → Got β) (l : β → State → Got γ) :
    (g.bind k).bind l = g.bind (fun a t => (k a t).bind l) := by
  cases g <;> rfl

theorem pulls_add (j k : Nat) (s : State) : pulls (j + k) s = (pulls j s).bind (fun _ t => pulls k t) := by
  induction j generalizing s with
  | zero => rw [Nat.zero_add]; rfl
  | succ j ih =>
    rw [Nat.succ_add, pulls, pulls, Got.bind_assoc]
    simp only [ih]

/-- Pulls that stop have first taken every byte there was (R141, R145). -/
theorem pulls_stop {k : Nat} {s u : State} {r : Stop} (h : pulls k s = .stop r u) :
    ∃ j, j < k ∧ pulls j s = .ok () u ∧ u.availIn = 0 := by
  induction k generalizing s with
  | zero => cases h
  | succ k ih =>
    rw [pulls] at h
    cases hpull : pull s with
    | ok a t =>
      rw [hpull] at h
      obtain ⟨j, hj, hok, hempty⟩ := ih h
      exact ⟨j + 1, by omega, by rw [pulls, hpull]; exact hok, hempty⟩
    | stop r' t =>
      rw [hpull] at h
      cases h
      obtain ⟨hempty, -, rfl⟩ := pull_stop hpull
      exact ⟨0, by omega, rfl, hempty⟩
    | fault f =>
      rw [hpull] at h
      cases h

/-! ### `afterPulls` -/

theorem inputNumber_lt (m : Memory) (a k : Nat) : inputNumber m a k < 2 ^ (8 * k) := by
  induction k with
  | zero => exact Nat.one_pos
  | succ k ih =>
    have hb := ((m.read (a + k)).getD 0).isLt
    rw [inputNumber, Nat.mul_succ, Nat.pow_add]
    calc inputNumber m a k + ((m.read (a + k)).getD 0).toNat * 2 ^ (8 * k)
        < (((m.read (a + k)).getD 0).toNat + 1) * 2 ^ (8 * k) := by rw [Nat.add_mul, Nat.one_mul]; omega
      _ ≤ 2 ^ 8 * 2 ^ (8 * k) := Nat.mul_le_mul_right _ hb
      _ = 2 ^ (8 * k) * 2 ^ 8 := Nat.mul_comm _ _

/-- Two states that a state's pulls led to are equal when the bit reader's registers are. -/
theorem Pulled.ext {s t u : State} (ht : Pulled s t) (hu : Pulled s u) (hbitb : t.bitb = u.bitb) (hbitk : t.bitk = u.bitk)
    (hnext : t.nextIn = u.nextIn) (havail : t.availIn = u.availIn) (htotal : t.totalIn = u.totalIn) : t = u := by
  rw [ht, hu, hbitb, hbitk, hnext, havail, htotal]

section AfterPulls
variable {k : Nat} {s : State}

theorem afterPulls_bitk_toNat (h : s.bitk.toNat + 8 * k < 64) : (afterPulls k s).bitk.toNat = s.bitk.toNat + 8 * k :=
  Nat.mod_eq_of_lt h

theorem afterPulls_availIn_toNat (h : k ≤ s.availIn.toNat) : (afterPulls k s).availIn.toNat = s.availIn.toNat - k := by
  have hk : (BitVec.ofNat 32 k).toNat = k := Nat.mod_eq_of_lt (h.trans_lt s.availIn.isLt)
  rw [afterPulls_availIn, BitVec.toNat_sub_of_le (by rwa [BitVec.le_def, hk]), hk]

/-- The word of the bytes pulled takes the next one above them. -/
theorem ofNat_inputNumber_succ (m : Memory) (a k : Nat) {b : Byte} (hb : m.read (a + k) = some b) :
    BitVec.ofNat 32 (inputNumber m a (k + 1)) = BitVec.ofNat 32 (inputNumber m a k) ||| (b.setWidth 32 <<< (8 * k)) := by
  have hset : (b.setWidth 32).toNat = b.toNat := BitVec.toNat_setWidth_of_le (by decide)
  apply BitVec.eq_of_toNat_eq
  rw [BitVec.toNat_or, BitVec.toNat_shiftLeft, BitVec.toNat_ofNat, BitVec.toNat_ofNat, hset, ← Nat.or_mod_two_pow, inputNumber, hb,
    Option.getD_some, Nat.shiftLeft_eq, Nat.or_comm, Nat.mul_comm b.toNat, ← Nat.two_pow_add_eq_or_of_lt (inputNumber_lt m a k),
    Nat.add_comm]

section Readable
variable (hwrap : inWraps s = false) (hread : inputReadable s)
include hwrap hread

/-- The next byte of the input stands at the cursor. -/
theorem pull_afterPulls (hk : k < s.availIn.toNat) (hbits : s.bitk.toNat + 8 * k < 64) :
    pull (afterPulls k s) = .ok () (afterPulls (k + 1) s) := by
  have hfits : s.nextIn.toNat + s.availIn.toNat ≤ 2 ^ 32 := not_lt.1 (decide_eq_false_iff_not.1 hwrap)
  have hnext : (afterPulls k s).nextIn.toNat = s.nextIn.toNat + k := by
    have hk' : (BitVec.ofNat 32 k).toNat = k := Nat.mod_eq_of_lt (by omega)
    rw [afterPulls_nextIn, BitVec.toNat_add_of_lt (by omega), hk']
  have havail : (afterPulls k s).availIn ≠ 0 := by
    have hcount := afterPulls_availIn_toNat hk.le
    intro hzero
    rw [hzero] at hcount
    have : (0 : Word).toNat = 0 := rfl
    omega
  obtain ⟨b, hb⟩ := hread (s.nextIn.toNat + k) (by omega) (by omega)
  have hpull : pull (afterPulls k s) = .ok () (advanceIn (accept b (afterPulls k s))) :=
    pull_of_byte havail (by rw [hnext]; exact hb)
  rw [hpull]
  congr 1
  refine Pulled.ext (s := s) rfl rfl ?bitb ?bitk ?next ?avail ?total
  case bitb =>
    show (s.bitb ||| (BitVec.ofNat 32 (inputNumber s.memIn s.nextIn.toNat k) <<< s.bitk.toNat)) |||
        (b.setWidth 32 <<< (afterPulls k s).bitk.toNat) =
      s.bitb ||| (BitVec.ofNat 32 (inputNumber s.memIn s.nextIn.toNat (k + 1)) <<< s.bitk.toNat)
    rw [ofNat_inputNumber_succ _ _ _ hb, afterPulls_bitk_toNat hbits, BitVec.shiftLeft_or_distrib, BitVec.or_assoc,
      ← BitVec.shiftLeft_add, Nat.add_comm (8 * k)]
  case bitk =>
    show BitVec.ofNat 6 (s.bitk.toNat + 8 * k) + 8 = BitVec.ofNat 6 (s.bitk.toNat + 8 * (k + 1))
    rw [Nat.mul_succ, ← Nat.add_assoc, BitVec.ofNat_add (s.bitk.toNat + 8 * k)]
    rfl
  case next =>
    show s.nextIn + BitVec.ofNat 32 k + 1 = s.nextIn + BitVec.ofNat 32 (k + 1)
    rw [BitVec.ofNat_add, BitVec.add_assoc]
    rfl
  case avail =>
    show s.availIn - BitVec.ofNat 32 k - 1 = s.availIn - BitVec.ofNat 32 (k + 1)
    rw [BitVec.ofNat_add, BitVec.sub_sub]
    rfl
  case total =>
    show s.totalIn + BitVec.ofNat 64 k + 1 = s.totalIn + BitVec.ofNat 64 (k + 1)
    rw [BitVec.ofNat_add, BitVec.add_assoc]
    rfl

/-- Pulls take the input's next bytes as long as there are some. -/
theorem pulls_eq_afterPulls (hk : k ≤ s.availIn.toNat) (hbits : s.bitk.toNat + 8 * k < 72) : pulls k s = .ok () (afterPulls k s) := by
  induction k with
  | zero => rw [afterPulls_zero, pulls]
  | succ k ih =>
    rw [pulls_add, ih (by omega) (by omega)]
    exact (pulls_one _).trans (pull_afterPulls hwrap hread hk (by omega))

/-- Pulls that want more than there is stop with all of it taken. -/
theorem pulls_of_short (hk : s.availIn.toNat < k) (hbits : s.bitk.toNat + 8 * s.availIn.toNat < 72) :
    pulls k s = .stop .needIn (afterPulls s.availIn.toNat s) := by
  have hempty : (afterPulls s.availIn.toNat s).availIn = 0 :=
    BitVec.eq_of_toNat_eq ((afterPulls_availIn_toNat le_rfl).trans (Nat.sub_self _))
  obtain ⟨j, rfl⟩ : ∃ j, k = s.availIn.toNat + (j + 1) := ⟨k - s.availIn.toNat - 1, by omega⟩
  rw [pulls_add, pulls_eq_afterPulls hwrap hread le_rfl hbits]
  show (pull (afterPulls s.availIn.toNat s)).bind _ = _
  rw [pull_of_empty hempty]
  rfl

end Readable

/-- The bits of the bytes pulled stand above the bits held, with no stale bit between (R65, R141). -/
theorem afterPulls_bitb_toNat (hstale : s.bitb.toNat < 2 ^ s.bitk.toNat) (hbits : s.bitk.toNat + 8 * k ≤ 32) :
    (afterPulls k s).bitb.toNat = s.bitb.toNat + inputNumber s.memIn s.nextIn.toNat k * 2 ^ s.bitk.toNat := by
  have hnumber := inputNumber_lt s.memIn s.nextIn.toNat k
  have hword : inputNumber s.memIn s.nextIn.toNat k * 2 ^ s.bitk.toNat < 2 ^ 32 :=
    calc inputNumber s.memIn s.nextIn.toNat k * 2 ^ s.bitk.toNat < 2 ^ (8 * k) * 2 ^ s.bitk.toNat :=
          Nat.mul_lt_mul_of_pos_right hnumber (Nat.two_pow_pos _)
      _ = 2 ^ (8 * k + s.bitk.toNat) := (Nat.pow_add _ _ _).symm
      _ ≤ 2 ^ 32 := Nat.pow_le_pow_right two_pos (by omega)
  have hsmall : inputNumber s.memIn s.nextIn.toNat k < 2 ^ 32 :=
    hnumber.trans_le (Nat.pow_le_pow_right two_pos (by omega))
  show (s.bitb ||| (BitVec.ofNat 32 (inputNumber s.memIn s.nextIn.toNat k) <<< s.bitk.toNat)).toNat = _
  rw [BitVec.toNat_or, BitVec.toNat_shiftLeft, BitVec.toNat_ofNat, Nat.mod_eq_of_lt hsmall, Nat.shiftLeft_eq, Nat.mod_eq_of_lt hword,
    Nat.or_comm, Nat.mul_comm, ← Nat.two_pow_add_eq_or_of_lt hstale, Nat.add_comm]

end AfterPulls

/-- Settles O8: the number of pulls is the least that reaches `n` bits. -/
theorem needBitsPullsFewest : Obligations.NeedBitsPullsFewest := by
  unfold Obligations.NeedBitsPullsFewest
  intro n s hn hk hwrap hread
  refine ⟨needBits_enough, fun henough => ?_, fun hshort => ⟨?_, ?_⟩, fun k hbits havail => ⟨?_, ?_, ?_⟩⟩
  · exact ⟨(n - s.bitk.toNat + 7) / 8, by omega, pulls_eq_afterPulls hwrap hread (by omega) (by omega), by omega, by omega⟩
  · exact pulls_of_short hwrap hread (by omega) (by omega)
  · exact BitVec.eq_of_toNat_eq ((afterPulls_availIn_toNat le_rfl).trans (Nat.sub_self _))
  · exact afterPulls_bitk_toNat hbits
  · exact afterPulls_availIn_toNat havail
  · exact afterPulls_bitb_toNat

end Sys2Proof.Machine
end

section
/-! SUPPORT. The lookup: how many bytes it pulls, and that no byte more or fewer changes its answer (R176, R178, R179). -/

namespace Sys2Proof.Machine

/-- The entry that the bits held select on a level of a table (R176). -/
def chosenEntry (tab : List Entry) (base width : Nat) (s : State) : Entry := entryAt tab (base + s.bitb.toNat % 2 ^ width)

theorem chosenEntry_eq (tab : List Entry) (base width : Nat) (s : State) :
    tab.getD (base + peek width s) Entry.invalid = chosenEntry tab base width s := by
  rw [peek_eq_mod]
  rfl

theorem entry_bits_le (e : Entry) : e.bits.toNat ≤ 15 := Nat.le_of_lt_succ e.bits.isLt

/-- Before each of `j` pulls the entry selected had more bits than were held. -/
def ShortBefore (tab : List Entry) (base width j : Nat) (s : State) : Prop :=
  ∀ i, i < j → ∀ t, pulls i s = .ok () t → t.bitk.toNat < (chosenEntry tab base width t).bits.toNat

theorem shortBefore_zero (tab : List Entry) (base width : Nat) (s : State) : ShortBefore tab base width 0 s :=
  fun _ hi => absurd hi (Nat.not_lt_zero _)

section Loop
variable {tab : List Entry} {base width : Nat} {s : State}

theorem lookupLoop_zero : lookupLoop 0 tab base width s = .ok (chosenEntry tab base width s) s := by
  rw [lookupLoop, chosenEntry_eq]

/-- The entry is answered as soon as its bits are held. -/
theorem lookupLoop_of_held (h : (chosenEntry tab base width s).bits.toNat ≤ s.bitk.toNat) (k : Nat) :
    lookupLoop k tab base width s = .ok (chosenEntry tab base width s) s := by
  cases k with
  | zero => exact lookupLoop_zero
  | succ k =>
    rw [lookupLoop, chosenEntry_eq]
    exact if_pos h

theorem lookupLoop_of_short (h : s.bitk.toNat < (chosenEntry tab base width s).bits.toNat) (k : Nat) :
    lookupLoop (k + 1) tab base width s = (pull s).bind (fun _ t => lookupLoop k tab base width t) := by
  rw [lookupLoop, chosenEntry_eq]
  exact if_neg h.not_ge

theorem shortBefore_succ {j : Nat} {u : State} {a : Unit} (hpull : pull s = .ok a u)
    (hshort : s.bitk.toNat < (chosenEntry tab base width s).bits.toNat) (h : ShortBefore tab base width j u) :
    ShortBefore tab base width (j + 1) s := by
  intro i hi t hpulls
  cases i with
  | zero =>
    cases hpulls
    exact hshort
  | succ i =>
    rw [pulls, hpull] at hpulls
    exact h i (Nat.lt_of_succ_lt_succ hi) t hpulls

theorem shortBefore_of_succ {j : Nat} {u : State} {a : Unit} (hpull : pull s = .ok a u)
    (h : ShortBefore tab base width (j + 1) s) : ShortBefore tab base width j u :=
  fun i hi t hpulls => h (i + 1) (Nat.succ_lt_succ hi) t (by rw [pulls, hpull]; exact hpulls)

/-- The lookup answers after some pulls, each made when the entry selected before it had too few bits. -/
theorem lookupLoop_ok {k : Nat} {t : State} {e : Entry} (h : lookupLoop k tab base width s = .ok e t) :
    e = chosenEntry tab base width t ∧ ∃ j, j ≤ k ∧ pulls j s = .ok () t ∧ ShortBefore tab base width j s := by
  induction k generalizing s with
  | zero =>
    rw [lookupLoop_zero] at h
    cases h
    exact ⟨rfl, 0, le_rfl, rfl, shortBefore_zero _ _ _ _⟩
  | succ k ih =>
    rcases Nat.lt_or_ge s.bitk.toNat (chosenEntry tab base width s).bits.toNat with hshort | hheld
    · rw [lookupLoop_of_short hshort] at h
      obtain ⟨_, u, hpull, hrest⟩ := Got.bind_ok h
      obtain ⟨he, j, hj, hpulls, hbefore⟩ := ih hrest
      exact ⟨he, j + 1, by omega, by rw [pulls, hpull]; exact hpulls, shortBefore_succ hpull hshort hbefore⟩
    · rw [lookupLoop_of_held hheld] at h
      cases h
      exact ⟨rfl, 0, by omega, rfl, shortBefore_zero _ _ _ _⟩

/-- A lookup that stops has taken every byte there was, and the entry selected then has too few bits. -/
theorem lookupLoop_stop {k : Nat} {t : State} {r : Stop} (h : lookupLoop k tab base width s = .stop r t) :
    r = .needIn ∧ t.availIn = 0 ∧ ∃ j, j < k ∧ pulls j s = .ok () t ∧ ShortBefore tab base width j s := by
  induction k generalizing s with
  | zero =>
    rw [lookupLoop_zero] at h
    cases h
  | succ k ih =>
    rcases Nat.lt_or_ge s.bitk.toNat (chosenEntry tab base width s).bits.toNat with hshort | hheld
    · rw [lookupLoop_of_short hshort] at h
      cases hpull : pull s with
      | ok a u =>
        rw [hpull] at h
        obtain ⟨hr, hempty, j, hj, hpulls, hbefore⟩ := ih h
        exact ⟨hr, hempty, j + 1, by omega, by rw [pulls, hpull]; exact hpulls, shortBefore_succ hpull hshort hbefore⟩
      | stop r' u =>
        rw [hpull] at h
        cases h
        obtain ⟨hempty, rfl, rfl⟩ := pull_stop hpull
        exact ⟨rfl, hempty, 0, by omega, rfl, shortBefore_zero _ _ _ _⟩
      | fault f =>
        rw [hpull] at h
        cases h
    · rw [lookupLoop_of_held hheld] at h
      cases h

/-- With bytes to read, the lookup goes on from pull to pull until the entry selected is held or the input is empty (R179). -/
theorem lookupLoop_afterPulls (hwrap : inWraps s = false) (hread : inputReadable s) (hk : s.bitk.toNat ≤ 32) {n j : Nat}
    (hj : j ≤ s.availIn.toNat) (hn : j + n ≤ 2) (hfuel : 15 ≤ s.bitk.toNat + 8 * (j + n)) :
    ∃ k, j ≤ k ∧ k ≤ j + n ∧ k ≤ s.availIn.toNat ∧
      (∀ i, j ≤ i → i < k → (afterPulls i s).bitk.toNat < (chosenEntry tab base width (afterPulls i s)).bits.toNat) ∧
      ((lookupLoop n tab base width (afterPulls j s) = .ok (chosenEntry tab base width (afterPulls k s)) (afterPulls k s) ∧
          (chosenEntry tab base width (afterPulls k s)).bits.toNat ≤ (afterPulls k s).bitk.toNat) ∨
        (lookupLoop n tab base width (afterPulls j s) = .stop .needIn (afterPulls k s) ∧ k = s.availIn.toNat ∧
          (afterPulls k s).bitk.toNat < (chosenEntry tab base width (afterPulls k s)).bits.toNat)) := by
  induction n generalizing j with
  | zero =>
    have hbits := afterPulls_bitk_toNat (k := j) (s := s) (by omega)
    have hle := entry_bits_le (chosenEntry tab base width (afterPulls j s))
    exact ⟨j, le_rfl, le_rfl, hj, fun i h1 h2 => by omega, .inl ⟨lookupLoop_zero, by omega⟩⟩
  | succ n ih =>
    rcases Nat.lt_or_ge (afterPulls j s).bitk.toNat (chosenEntry tab base width (afterPulls j s)).bits.toNat with hshort | hheld
    · rw [lookupLoop_of_short hshort]
      rcases Nat.lt_or_ge j s.availIn.toNat with hmore | hempty
      · obtain ⟨k, hjk, hkn, hka, hbefore, hanswer⟩ := ih (j := j + 1) hmore (by omega) (by omega)
        refine ⟨k, by omega, by omega, hka, fun i hij hik => ?_, ?_⟩
        · rcases Nat.eq_or_lt_of_le hij with rfl | hlt
          · exact hshort
          · exact hbefore i hlt hik
        · rw [pull_afterPulls hwrap hread hmore (by omega)]
          exact hanswer
      · have hj : j = s.availIn.toNat := by omega
        have hnone : (afterPulls j s).availIn = 0 :=
          BitVec.eq_of_toNat_eq ((afterPulls_availIn_toNat hj.le).trans (by rw [hj]; exact Nat.sub_self _))
        refine ⟨j, le_rfl, by omega, hj.le, fun i h1 h2 => by omega, .inr ⟨?_, hj, hshort⟩⟩
        rw [pull_of_empty hnone]
        rfl
    · exact ⟨j, le_rfl, by omega, hj, fun i h1 h2 => by omega, .inl ⟨lookupLoop_of_held hheld _, hheld⟩⟩

end Loop

/-! ### Replicated levels (R178 (b)) -/

/-- Numbers that agree in their `k` low bits agree in the `n` low bits of an index, for every `n` up to `k`. -/
theorem mod_mod_two_pow_of_le {v w k n width : Nat} (h : v % 2 ^ k = w % 2 ^ k) (hn : n ≤ k) :
    v % 2 ^ width % 2 ^ n = w % 2 ^ width % 2 ^ n := by
  have hmin : min width n ≤ k := (Nat.min_le_right _ _).trans hn
  have hpow (x : Nat) : x % 2 ^ width % 2 ^ n = x % 2 ^ k % 2 ^ min width n := by
    rw [Nat.mod_mod_of_dvd _ (Nat.pow_dvd_pow 2 hmin)]
    rcases Nat.le_total width n with hle | hle
    · rw [Nat.min_eq_left hle]
      exact Nat.mod_eq_of_lt ((Nat.mod_lt _ (Nat.two_pow_pos _)).trans_le (Nat.pow_le_pow_right two_pos hle))
    · rw [Nat.min_eq_right hle]
      exact Nat.mod_mod_of_dvd _ (Nat.pow_dvd_pow 2 hle)
  rw [hpow, hpow, h]

/-- On a replicated level an entry whose bits are held is the one that all the bits to come select. -/
theorem replicates_of_agree {tab : List Entry} {base width v w k : Nat} (hrep : replicates tab base width)
    (h : v % 2 ^ k = w % 2 ^ k) (hbits : (entryAt tab (base + v % 2 ^ width)).bits.toNat ≤ k) :
    entryAt tab (base + w % 2 ^ width) = entryAt tab (base + v % 2 ^ width) :=
  hrep _ (Nat.mod_lt _ (Nat.two_pow_pos _)) _ (Nat.mod_lt _ (Nat.two_pow_pos _)) (mod_mod_two_pow_of_le h hbits)

/-- An entry that is not held is not held by all the bits to come either: a pull is never one too many (R179). -/
theorem replicates_of_short {tab : List Entry} {base width v w k : Nat} (hrep : replicates tab base width)
    (h : v % 2 ^ k = w % 2 ^ k) (hbits : k < (entryAt tab (base + v % 2 ^ width)).bits.toNat) :
    k < (entryAt tab (base + w % 2 ^ width)).bits.toNat := by
  by_contra hheld
  rw [replicates_of_agree hrep h.symm (not_lt.1 hheld)] at hbits
  exact hheld hbits

theorem two_pulls_le {s t : State} {j : Nat} (hk : s.bitk.toNat ≤ 32) (hj : j ≤ 2) (h : pulls j s = .ok () t) :
    t = s ∨ t.bitk.toNat = s.bitk.toNat + 8 ∨ t.bitk.toNat = s.bitk.toNat + 16 := by
  have hbits := pulls_bitk h (by omega)
  obtain rfl | rfl | rfl : j = 0 ∨ j = 1 ∨ j = 2 := by omega
  · cases h
    exact .inl rfl
  · exact .inr (.inl hbits)
  · exact .inr (.inr hbits)

/-- Settles O10: the loop's answer, its stop, and its pulls one by one. -/
theorem lookupPullsUntilHeld : Obligations.LookupPullsUntilHeld := by
  unfold Obligations.LookupPullsUntilHeld
  intro tab base width s hk
  refine ⟨fun e t h => ?answer, fun r t h => ?stop, fun hheld => ?held, fun hwrap hread => ?pulls, fun hrep bits hbits => ⟨?_, ?_⟩⟩
  case answer =>
    obtain ⟨hpulled, hheld, -⟩ := lookup_ok hk h
    obtain ⟨he, j, hj, hpulls, -⟩ := lookupLoop_ok h
    exact ⟨he, hheld, hpulled, two_pulls_le hk hj hpulls⟩
  case stop =>
    obtain ⟨hr, hempty, j, -, hpulls, -⟩ := lookupLoop_stop h
    exact ⟨hr, hempty, pulls_ok_pulled hpulls⟩
  case held => exact lookupLoop_of_held hheld 2
  case pulls =>
    obtain ⟨k, -, hk2, havail, hbefore, hanswer⟩ :=
      lookupLoop_afterPulls (tab := tab) (base := base) (width := width) (n := 2) (j := 0) hwrap hread hk (by omega)
        (by omega) (by omega)
    rw [afterPulls_zero] at hanswer
    exact ⟨k, by omega, havail, fun j => hbefore j (Nat.zero_le j), hanswer⟩
  all_goals
    have hagree : s.bitb.toNat % 2 ^ s.bitk.toNat = bits % 2 ^ s.bitk.toNat := by rw [← hbits, Nat.mod_mod]
  · exact replicates_of_agree hrep hagree
  · exact replicates_of_short hrep hagree

end Sys2Proof.Machine
end

section
/-! SUPPORT. A fetch that stopped goes on with more input as one fetch on the whole (R145, R149). -/

namespace Sys2Proof.Machine

/-- The state with more input bound: the count left is higher. -/
def feed (rest : Word) (s : State) : State := { s with availIn := s.availIn + rest }

theorem feed_of_empty {s : State} (h : s.availIn = 0) (rest : Word) : feed rest s = { s with availIn := rest } := by
  rw [feed, h, zero_add]

/-- Delivery does not look at the input. -/
theorem deliverN_feed (k : Nat) (rest : Word) (s : State) : deliverN k (feed rest s) = feed rest (deliverN k s) := by
  induction k generalizing s with
  | zero => rfl
  | succ k ih => exact ih (deliver s)

theorem flush_feed (rest : Word) (s : State) : flush (feed rest s) = feed rest (flush s) := deliverN_feed _ rest s

theorem room_feed {rest : Word} {s t : State} {a : Unit} (h : room s = .ok a t) : room (feed rest s) = .ok a (feed rest t) := by
  by_cases hfull : s.pend.toNat = wsize s
  · rw [room_of_full hfull] at h
    rw [room_of_full (s := feed rest s) hfull, flush_feed]
    split at h
    · cases h
    · cases h
      exact if_neg ‹_›
  · rw [room_of_free hfull] at h
    cases h
    exact room_of_free (s := feed rest s) hfull

section Feed
variable {rest : Word} {s : State} (hfits : s.availIn.toNat + rest.toNat < 2 ^ 32)
include hfits

theorem pull_feed {t : State} {a : Unit} (h : pull s = .ok a t) : pull (feed rest s) = .ok a (feed rest t) := by
  obtain ⟨havail, b, hb, rfl⟩ := pull_ok h
  have hne : (feed rest s).availIn ≠ 0 := by
    intro hzero
    have hsum := BitVec.toNat_add_of_lt hfits
    have hpos : s.availIn.toNat ≠ 0 := fun h0 => havail (BitVec.eq_of_toNat_eq h0)
    have h0 : (s.availIn + rest).toNat = 0 := congrArg BitVec.toNat hzero
    omega
  rw [pull_of_byte hne hb]
  congr 1
  refine Pulled.ext (s := feed rest s) rfl rfl rfl rfl rfl ?_ rfl
  show s.availIn + rest - 1 = s.availIn - 1 + rest
  rw [BitVec.sub_eq_add_neg, BitVec.sub_eq_add_neg, BitVec.add_assoc, BitVec.add_comm rest, BitVec.add_assoc]

theorem pull_availIn_le {t : State} {a : Unit} (h : pull s = .ok a t) : t.availIn.toNat + rest.toNat < 2 ^ 32 := by
  obtain ⟨havail, b, -, rfl⟩ := pull_ok h
  have hpos : s.availIn.toNat ≠ 0 := fun h0 => havail (BitVec.eq_of_toNat_eq h0)
  have hone : (s.availIn - 1).toNat = s.availIn.toNat - 1 :=
    BitVec.toNat_sub_of_le (BitVec.le_def.2 (Nat.one_le_iff_ne_zero.2 hpos))
  rw [advanceIn_availIn, accept_availIn, hone]
  omega

theorem pulls_feed {k : Nat} {t : State} (h : pulls k s = .ok () t) : pulls k (feed rest s) = .ok () (feed rest t) := by
  induction k generalizing s with
  | zero =>
    cases h
    rfl
  | succ k ih =>
    obtain ⟨_, u, hpull, hrest⟩ := Got.bind_ok h
    rw [pulls, pull_feed hfits hpull]
    exact ih (pull_availIn_le hfits hpull) hrest

theorem pulls_availIn_le {k : Nat} {t : State} (h : pulls k s = .ok () t) : t.availIn.toNat + rest.toNat < 2 ^ 32 := by
  induction k generalizing s with
  | zero =>
    cases h
    exact hfits
  | succ k ih =>
    obtain ⟨_, u, hpull, hrest⟩ := Got.bind_ok h
    exact ih (pull_availIn_le hfits hpull) hrest

/-- More input changes nothing of a lookup that has answered, and a lookup that stopped goes on from where it stopped. -/
theorem lookupLoop_feed {tab : List Entry} {base width k j : Nat} {u : State} (hj : j ≤ k) (hpulls : pulls j s = .ok () u)
    (hbefore : ShortBefore tab base width j s) :
    lookupLoop k tab base width (feed rest s) = lookupLoop (k - j) tab base width (feed rest u) := by
  induction j generalizing s k with
  | zero =>
    cases hpulls
    rfl
  | succ j ih =>
    obtain ⟨k, rfl⟩ : ∃ k', k = k' + 1 := ⟨k - 1, by omega⟩
    obtain ⟨_, t, hpull, hrest⟩ := Got.bind_ok hpulls
    have hshort : (feed rest s).bitk.toNat < (chosenEntry tab base width (feed rest s)).bits.toNat := hbefore 0 (by omega) s rfl
    rw [lookupLoop_of_short hshort, pull_feed hfits hpull, show k + 1 - (j + 1) = k - j by omega]
    exact ih (pull_availIn_le hfits hpull) (by omega) hrest (shortBefore_of_succ hpull hbefore)

theorem lookupLoop_feed_ok {tab : List Entry} {base width k : Nat} {t : State} {e : Entry} (h : lookupLoop k tab base width s = .ok e t)
    (hheld : e.bits.toNat ≤ t.bitk.toNat) : lookupLoop k tab base width (feed rest s) = .ok e (feed rest t) := by
  obtain ⟨rfl, j, hj, hpulls, hbefore⟩ := lookupLoop_ok h
  rw [lookupLoop_feed hfits hj hpulls hbefore]
  exact lookupLoop_of_held (s := feed rest t) hheld _

end Feed

/-- Two pulls make every entry held, so a longer loop answers the same. -/
theorem lookupLoop_fuel {tab : List Entry} {base width m n : Nat} {s : State} (hm : 15 ≤ s.bitk.toNat + 8 * m) (hmn : m ≤ n) :
    lookupLoop n tab base width s = lookupLoop m tab base width s := by
  induction m generalizing n s with
  | zero =>
    have hheld : (chosenEntry tab base width s).bits.toNat ≤ s.bitk.toNat := (entry_bits_le _).trans (by omega)
    rw [lookupLoop_of_held hheld, lookupLoop_of_held hheld]
  | succ m ih =>
    obtain ⟨n, rfl⟩ : ∃ n', n = n' + 1 := ⟨n - 1, by omega⟩
    rcases Nat.lt_or_ge s.bitk.toNat (chosenEntry tab base width s).bits.toNat with hshort | hheld
    · rw [lookupLoop_of_short hshort, lookupLoop_of_short hshort]
      cases hpull : pull s with
      | ok a t =>
        have hle := entry_bits_le (chosenEntry tab base width s)
        obtain ⟨-, b, -, rfl⟩ := pull_ok hpull
        have hbits := pull_bitk b s (by omega)
        exact ih (by omega) (by omega)
      | stop r t => rfl
      | fault f => rfl
    · rw [lookupLoop_of_held hheld, lookupLoop_of_held hheld]

/-! ### The operations of a fetch -/

section Resume
variable {s u : State} {rest : Word} (hk : s.bitk.toNat ≤ 32) (hfits : s.availIn.toNat + rest.toNat < 2 ^ 32)
include hk hfits

theorem needBits_resumes {n : Nat} {r : Stop} (hn : n ≤ 32) (h : needBits n s = .stop r u) :
    needBits n (feed rest u) = needBits n (feed rest s) := by
  obtain ⟨j, hj, hpulls, -⟩ := pulls_stop h
  have hbits := pulls_bitk hpulls (by omega)
  have hcount : (n - s.bitk.toNat + 7) / 8 = j + (n - u.bitk.toNat + 7) / 8 := by omega
  show pulls ((n - u.bitk.toNat + 7) / 8) (feed rest u) = pulls ((n - s.bitk.toNat + 7) / 8) (feed rest s)
  rw [hcount, pulls_add, pulls_feed hfits hpulls]
  rfl

theorem lookup_resumes {tab : List Entry} {base width : Nat} {r : Stop} (h : lookup tab base width s = .stop r u) :
    lookup tab base width (feed rest u) = lookup tab base width (feed rest s) := by
  obtain ⟨-, -, j, hj, hpulls, hbefore⟩ := lookupLoop_stop h
  have hbits := pulls_bitk hpulls (by omega)
  have hfuel : 15 ≤ (feed rest u).bitk.toNat + 8 * (2 - j) := by
    show 15 ≤ u.bitk.toNat + 8 * (2 - j)
    omega
  rw [lookup, lookup, lookupLoop_feed hfits hj.le hpulls hbefore]
  exact lookupLoop_fuel hfuel (Nat.sub_le _ _)

theorem fetchBits_resumes {n : Nat} {r : Stop} (hn : n ≤ 32) (h : fetchBits n s = .stop r u) :
    fetchBits n (feed rest u) = fetchBits n (feed rest s) := by
  have hstop : needBits n s = .stop r u := by
    cases hneed : needBits n s with
    | ok a t => rw [fetchBits, hneed] at h; cases h
    | stop r' t => rw [fetchBits, hneed] at h; cases h; rfl
    | fault f => rw [fetchBits, hneed] at h; cases h
  rw [fetchBits, fetchBits, needBits_resumes hk hfits hn hstop]

end Resume

/-- Two operations in a row stop when the first stops, or the second after it. -/
theorem Got.bind_stop {α β : Type} {g : Got α} {k : α → State → Got β} {r : Stop} {u : State} (h : g.bind k = .stop r u) :
    g = .stop r u ∨ ∃ a t, g = .ok a t ∧ k a t = .stop r u := by
  cases g with
  | ok a t => exact .inr ⟨a, t, rfl, h⟩
  | stop r' t =>
    cases h
    exact .inl rfl
  | fault f => cases h

/-- The bits held stay where they are while bytes are pulled above them. -/
theorem accept_bitb_mod (b : Byte) {s : State} {m : Nat} (h : m ≤ s.bitk.toNat) :
    (accept b s).bitb.toNat % 2 ^ m = s.bitb.toNat % 2 ^ m := by
  apply Nat.eq_of_testBit_eq
  intro i
  rw [Nat.testBit_mod_two_pow, Nat.testBit_mod_two_pow, accept_bitb, BitVec.testBit_toNat, BitVec.testBit_toNat, BitVec.getLsbD_or,
    BitVec.getLsbD_shiftLeft]
  by_cases hi : i < m
  · simp [show i < s.bitk.toNat by omega]
  · simp [hi]

theorem pulls_bitb_mod {k m : Nat} {s t : State} (h : pulls k s = .ok () t) (hbits : s.bitk.toNat + 8 * k < 64)
    (hm : m ≤ s.bitk.toNat) : t.bitb.toNat % 2 ^ m = s.bitb.toNat % 2 ^ m := by
  induction k generalizing s with
  | zero =>
    cases h
    rfl
  | succ k ih =>
    obtain ⟨_, u, hpull, hrest⟩ := Got.bind_ok h
    obtain ⟨-, b, -, rfl⟩ := pull_ok hpull
    have hbitk := pull_bitk b s (by omega)
    rw [ih hrest (by omega) (by omega)]
    exact accept_bitb_mod b hm

/-- On a replicated level bytes pulled later leave a lookup's answer as it was (R178 (b)). -/
theorem lookup_after_pulls {tab : List Entry} {base width k : Nat} {s t u : State} {e : Entry} (hrep : replicates tab base width)
    (hk : s.bitk.toNat ≤ 32) (hlookup : lookup tab base width s = .ok e t) (hpulls : pulls k t = .ok () u)
    (hbits : t.bitk.toNat + 8 * k < 64) : lookup tab base width u = .ok e u := by
  obtain ⟨-, hheld, he⟩ := lookup_ok hk hlookup
  rw [chosenEntry_eq] at he
  subst he
  have hagree := pulls_bitb_mod hpulls hbits le_rfl
  have hsame : chosenEntry tab base width u = chosenEntry tab base width t := replicates_of_agree hrep hagree.symm hheld
  have hcount := pulls_bitk hpulls hbits
  rw [lookup, lookupLoop_of_held (by rw [hsame]; omega), hsame]

theorem lookup_bitk_le {tab : List Entry} {base width : Nat} {s t : State} {e : Entry} (hk : s.bitk.toNat ≤ 32)
    (h : lookup tab base width s = .ok e t) : s.bitk.toNat ≤ t.bitk.toNat ∧ t.bitk.toNat ≤ 32 := by
  obtain ⟨-, j, hj, hpulls, hbefore⟩ := lookupLoop_ok h
  have hcount := pulls_bitk hpulls (by omega)
  cases j with
  | zero => omega
  | succ j =>
    rw [pulls_add] at hpulls
    obtain ⟨_, v, hv, -⟩ := Got.bind_ok hpulls
    have hshort := hbefore j (by omega) v hv
    have hle := entry_bits_le (chosenEntry tab base width v)
    have hbitv := pulls_bitk hv (by omega)
    omega

section Fetch
variable {s u : State} {rest : Word} (hk : s.bitk.toNat ≤ 32) (hfits : s.availIn.toNat + rest.toNat < 2 ^ 32)
include hk hfits

/-- Room made before the stop is not asked for again (R197). -/
theorem fetch_stored_resumes (h : fetch .stored s = .stop .needIn u) : fetch .stored (feed rest u) = fetch .stored (feed rest s) := by
  obtain hroom | ⟨_, t, hroom, hstop⟩ := Got.bind_stop h
  · exact absurd (room_stop hroom).1 (by decide)
  · obtain ⟨hdelivered, hfree⟩ := room_ok hroom
    have hpulled : Pulled t u := by
      obtain hstop | ⟨_, _, -, hok⟩ := Got.bind_stop hstop
      · exact (pulls_stop_pulled hstop).2
      · cases hok
    have hbitk : t.bitk = s.bitk := by rw [hdelivered]
    have havail : t.availIn = s.availIn := by rw [hdelivered]
    have hfree' : (feed rest u).pend.toNat ≠ wsize (feed rest u) := by
      rw [hpulled]
      exact hfree
    have hstart : fetch .stored (feed rest s) = fetchBits 8 (feed rest t) := by
      rw [fetch, room_feed hroom]
      rfl
    have hagain : fetch .stored (feed rest u) = fetchBits 8 (feed rest u) := by
      rw [fetch, room_of_free hfree']
      rfl
    rw [hstart, hagain, fetchBits_resumes (by rwa [hbitk]) (by rwa [havail]) (by decide) hstop]

/-- The entry of a code-length symbol is looked up again, with the same answer (R202). -/
theorem fetchCl_resumes (hrep : replicates s.ct 0 7) (h : fetchCl s = .stop .needIn u) :
    fetchCl (feed rest u) = fetchCl (feed rest s) := by
  obtain hlookup | ⟨e, t, hlookup, hrest⟩ := Got.bind_stop h
  · have hct : u.ct = s.ct := by
      obtain ⟨-, -, j, -, hpulls, -⟩ := lookupLoop_stop hlookup
      rw [pulls_ok_pulled hpulls]
    have hresume := lookup_resumes hk hfits hlookup
    rw [fetchCl, fetchCl, show (feed rest u).ct = s.ct from hct, hresume]
    rfl
  · split at hrest
    · cases hrest
    · next hextra =>
      obtain hneed | ⟨_, _, -, hok⟩ := Got.bind_stop hrest
      · obtain ⟨hpulled, hheld, -⟩ := lookup_ok hk hlookup
        obtain ⟨hlow, hhigh⟩ := lookup_bitk_le hk hlookup
        obtain ⟨j, hj, hpulls, -⟩ := pulls_stop hneed
        have hwidth : e.bits.toNat + clExtra e ≤ 22 := by
          have hbits := entry_bits_le e
          have hseven : clExtra e ≤ 7 := by
            unfold clExtra
            repeat' split
            all_goals decide
          omega
        have hagain : lookup s.ct 0 7 u = .ok e u := lookup_after_pulls hrep hk hlookup hpulls (by omega)
        have hct : u.ct = s.ct := by rw [pulls_ok_pulled hpulls, hpulled]
        have hcount := pulls_bitk hpulls (by omega)
        have havail : t.availIn.toNat + rest.toNat < 2 ^ 32 := by
          obtain ⟨-, i, -, hlooked, -⟩ := lookupLoop_ok hlookup
          exact pulls_availIn_le hfits hlooked
        have hstart : fetchCl (feed rest s) = (needBits (e.bits.toNat + clExtra e) (feed rest t)).bind fun _ v => .ok e v := by
          have hfed : lookup s.ct 0 7 (feed rest s) = .ok e (feed rest t) := lookupLoop_feed_ok hfits hlookup hheld
          rw [fetchCl, show (feed rest s).ct = s.ct from rfl, show Config.clroot = 7 from rfl, hfed]
          exact if_neg hextra
        have hcontinue : fetchCl (feed rest u) = (needBits (e.bits.toNat + clExtra e) (feed rest u)).bind fun _ v => .ok e v := by
          have huheld : e.bits.toNat ≤ u.bitk.toNat := by omega
          have hfed : lookup s.ct 0 7 (feed rest u) = .ok e (feed rest u) := by
            obtain ⟨hchosen, -⟩ := lookupLoop_ok hagain
            rw [hchosen] at huheld ⊢
            exact lookupLoop_of_held (s := feed rest u) huheld 2
          rw [fetchCl, show (feed rest u).ct = s.ct from hct, show Config.clroot = 7 from rfl, hfed]
          exact if_neg hextra
        rw [hstart, hcontinue, needBits_resumes hhigh havail (by omega) hneed]
      · cases hok

end Fetch

/-- A lookup that stopped leaves nothing to read, in tables and cursors as they were. -/
theorem lookup_stop_pulled {tab : List Entry} {base width : Nat} {s u : State} {r : Stop} (h : lookup tab base width s = .stop r u) :
    Pulled s u ∧ u.availIn = 0 := by
  obtain ⟨-, hempty, j, -, hpulls, -⟩ := lookupLoop_stop h
  exact ⟨pulls_ok_pulled hpulls, hempty⟩

theorem fetchBits_stop_empty {n : Nat} {s u : State} {r : Stop} (h : fetchBits n s = .stop r u) : u.availIn = 0 := by
  obtain hneed | ⟨_, _, -, hok⟩ := Got.bind_stop h
  · obtain ⟨-, -, -, hempty⟩ := pulls_stop hneed
    exact hempty
  · cases hok

/-- A fetch stops for input only when there is none left. -/
theorem fetch_stop_empty {slot : Slot} {s u : State} (h : fetch slot s = .stop .needIn u) : u.availIn = 0 := by
  cases slot
  case command | align => cases h
  case stored =>
    obtain hroom | ⟨_, t, -, hstop⟩ := Got.bind_stop h
    · exact absurd (room_stop hroom).1 (by decide)
    · exact fetchBits_stop_empty hstop
  case dtree =>
    obtain hlookup | ⟨e, t, -, hrest⟩ := Got.bind_stop h
    · exact (lookup_stop_pulled hlookup).2
    · split at hrest
      · cases hrest
      · obtain hneed | ⟨_, _, -, hok⟩ := Got.bind_stop hrest
        · obtain ⟨-, -, -, hempty⟩ := pulls_stop hneed
          exact hempty
        · cases hok
  case len | dist => exact (lookup_stop_pulled h).2
  all_goals exact fetchBits_stop_empty h

/-- Settles O11: each slot's fetch goes on where it stopped. -/
theorem suspendedFetchResumes : Obligations.SuspendedFetchResumes := by
  unfold Obligations.SuspendedFetchResumes
  intro slot s u rest hk hrep hfits h
  rw [← feed_of_empty (fetch_stop_empty h)]
  change fetch slot (feed rest u) = fetch slot (feed rest s)
  cases slot
  case command | align => cases h
  case stored => exact fetch_stored_resumes hk hfits h
  case dtree => exact fetchCl_resumes hk hfits (hrep rfl) h
  case len | dist =>
    have hresume := lookup_resumes hk hfits h
    obtain ⟨hlt, hdt, htptr, htneed⟩ : u.lt = s.lt ∧ u.dt = s.dt ∧ u.tptr = s.tptr ∧ u.tneed = s.tneed := by
      rw [(lookup_stop_pulled h).1]
      exact ⟨rfl, rfl, rfl, rfl⟩
    simpa only [fetch, feed, hlt, hdt, htptr, htneed] using hresume
  case lenext w | distext w => exact fetchBits_resumes hk hfits (by omega) h
  all_goals exact fetchBits_resumes hk hfits (by decide) h

end Sys2Proof.Machine
end


section
/-! SUPPORT. The bytes that `flush()` delivers (R255). -/

namespace Sys2Proof.Machine

/-- The `i`-th pending byte, the first one being next to go out (R61, R62). -/
def pendingByte (s : State) (i : Nat) : Byte := winAt s.win ((s.rd.toNat + i) % wsize s)

theorem deliver_rd_toNat (s : State) : (deliver s).rd.toNat = (s.rd.toNat + 1) % wsize s := toNat_ofNat_mod_wsize _ s

theorem pendingByte_deliver (s : State) (i : Nat) : pendingByte (deliver s) i = pendingByte s (i + 1) := by
  rw [pendingByte, pendingByte, deliver_rd_toNat, deliver_win, show wsize (deliver s) = wsize s from rfl, Nat.mod_add_mod,
    Nat.add_assoc, Nat.add_comm 1]

theorem pendingByte_zero {s : State} (h : s.rd.toNat < wsize s) : pendingByte s 0 = winAt s.win s.rd.toNat := by
  rw [pendingByte, Nat.add_zero, Nat.mod_eq_of_lt h]

/-- A cursor that counts on (R26 to R31). -/
theorem add_one_add_ofNat {w : Nat} (a : BitVec w) (k : Nat) : a + 1 + BitVec.ofNat w k = a + BitVec.ofNat w (k + 1) := by
  rw [BitVec.add_assoc, show (1 : BitVec w) = BitVec.ofNat w 1 from rfl, ← BitVec.ofNat_add, Nat.add_comm 1]

section Deliver
variable {k : Nat} {s : State}

theorem deliverN_nextOut : (deliverN k s).nextOut = s.nextOut + BitVec.ofNat 32 k := by
  induction k generalizing s with
  | zero => exact (BitVec.add_zero _).symm
  | succ k ih => rw [deliverN, ih, deliver_nextOut, add_one_add_ofNat]

theorem deliverN_totalOut : (deliverN k s).totalOut = s.totalOut + BitVec.ofNat 64 k := by
  induction k generalizing s with
  | zero => exact (BitVec.add_zero _).symm
  | succ k ih => rw [deliverN, ih, deliver_totalOut, add_one_add_ofNat]

/-- Delivery leaves every address of the output that the cursor does not pass. -/
theorem deliverN_memOut_other {a : Nat} (h : ∀ i, i < k → a ≠ (s.nextOut + BitVec.ofNat 32 i).toNat) :
    (deliverN k s).memOut.read a = s.memOut.read a := by
  induction k generalizing s with
  | zero => rfl
  | succ k ih =>
    rw [deliverN, ih, deliver_memOut]
    · exact Memory.read_write_other _ _ (by simpa using h 0 (Nat.succ_pos k))
    · intro i hi
      rw [deliver_nextOut, add_one_add_ofNat]
      exact h (i + 1) (Nat.succ_lt_succ hi)

variable (hrd : s.rd.toNat < wsize s)
include hrd

theorem deliverN_rd_toNat : (deliverN k s).rd.toNat = (s.rd.toNat + k) % wsize s := by
  induction k generalizing s with
  | zero => exact (Nat.mod_eq_of_lt hrd).symm
  | succ k ih =>
    have hnext : (deliver s).rd.toNat < wsize (deliver s) := deliver_rd_toNat s ▸ Nat.mod_lt _ (wsize_pos s)
    rw [deliverN, ih hnext, deliver_rd_toNat, show wsize (deliver s) = wsize s from rfl, Nat.mod_add_mod, Nat.add_assoc, Nat.add_comm 1]

/-- The bytes stand in the output in the order they were pending. -/
theorem deliverN_memOut_read {i : Nat} (hk : k ≤ 2 ^ 32) (hi : i < k) :
    (deliverN k s).memOut.read (s.nextOut + BitVec.ofNat 32 i).toNat = some (pendingByte s i) := by
  induction k generalizing s i with
  | zero => exact absurd hi (Nat.not_lt_zero i)
  | succ k ih =>
    have hnext : (deliver s).rd.toNat < wsize (deliver s) := deliver_rd_toNat s ▸ Nat.mod_lt _ (wsize_pos s)
    rw [deliverN]
    cases i with
    | zero =>
      rw [BitVec.add_zero, deliverN_memOut_other, deliver_memOut, Memory.read_write_same, pendingByte_zero hrd]
      intro j hj
      rw [deliver_nextOut]
      bv_omega
    | succ i =>
      have hread := ih hnext (Nat.le_of_succ_le hk) (Nat.lt_of_succ_lt_succ hi)
      rwa [deliver_nextOut, add_one_add_ofNat, pendingByte_deliver] at hread

theorem deliverN_adler : (deliverN k s).adler = adlerOf s.adler ((List.range k).map (pendingByte s)) := by
  induction k generalizing s with
  | zero => rfl
  | succ k ih =>
    have hnext : (deliver s).rd.toNat < wsize (deliver s) := deliver_rd_toNat s ▸ Nat.mod_lt _ (wsize_pos s)
    rw [deliverN, ih hnext, List.range_succ_eq_map, List.map_cons, List.map_map, adlerOf, deliver_adler, pendingByte_zero hrd]
    exact congrArg _ (List.map_congr_left fun i _ => pendingByte_deliver s i)

end Deliver

theorem outWraps_eq_false_iff (s : State) : outWraps s = false ↔ s.nextOut.toNat + s.availOut.toNat ≤ 2 ^ 32 := by
  rw [outWraps, decide_eq_false_iff_not, not_lt]
  rfl

theorem inWraps_eq_false_iff (s : State) : inWraps s = false ↔ s.nextIn.toNat + s.availIn.toNat ≤ 2 ^ 32 := by
  rw [inWraps, decide_eq_false_iff_not, not_lt]
  rfl

/-- In a slice that does not wrap the cursor passes consecutive addresses. -/
theorem nextOut_add_toNat {s : State} {i : Nat} (hwrap : outWraps s = false) (hi : i < s.availOut.toNat) :
    (s.nextOut + BitVec.ofNat 32 i).toNat = s.nextOut.toNat + i := by
  rw [outWraps_eq_false_iff] at hwrap
  bv_omega

/-- Delivery leaves what is outside the addresses that the cursor passes. -/
theorem deliverN_memOut_outside {k a : Nat} {s : State} (hwrap : outWraps s = false) (hk : k ≤ s.availOut.toNat)
    (ha : a < s.nextOut.toNat ∨ s.nextOut.toNat + k ≤ a) : (deliverN k s).memOut.read a = s.memOut.read a := by
  refine deliverN_memOut_other fun i hi => ?_
  rw [nextOut_add_toNat hwrap (hi.trans_le hk)]
  omega

/-- Settles O36: the delivery of the bytes that are pending and fit, one by one. -/
theorem flushDeliversInOrder : Obligations.FlushDeliversInOrder := by
  unfold Obligations.FlushDeliversInOrder
  intro s hinv hwrap k byte t
  have hk : k ≤ s.availOut.toNat := Nat.min_le_right _ _
  have hrd := hinv.read
  refine ⟨fun i hi => ?_, fun a ha => deliverN_memOut_outside hwrap hk ha, deliverN_adler hrd, deliverN_rd_toNat hrd, deliverN_nextOut,
    (flush_counts s).2, deliverN_totalOut, (flush_counts s).1, flush_delivered s⟩
  rw [← nextOut_add_toNat hwrap (hi.trans_le hk)]
  exact deliverN_memOut_read hrd (hk.trans s.availOut.isLt.le) hi

end Sys2Proof.Machine
end

section
/-! SUPPORT. A match, byte by byte (R234, R239). -/

namespace Sys2Proof.Machine

/-- A byte of a match changes the window, its cursor and counts, `LENR` and `CMODE` (R234). -/
theorem copyByte_iterate_frame (n : Nat) (s : State) :
    copyByte^[n] s = { s with win := (copyByte^[n] s).win, wr := (copyByte^[n] s).wr, pend := (copyByte^[n] s).pend,
                              whave := (copyByte^[n] s).whave, lenr := (copyByte^[n] s).lenr, cmode := (copyByte^[n] s).cmode } := by
  induction n generalizing s with
  | zero => rfl
  | succ n ih =>
    rw [Function.iterate_succ_apply]
    exact ih (copyByte s)

theorem copyByte_lenr (s : State) : (copyByte s).lenr = s.lenr - 1 := rfl

theorem copyByte_lenr_toNat {s : State} (h : 1 ≤ s.lenr.toNat) : (copyByte s).lenr.toNat = s.lenr.toNat - 1 := by
  rw [copyByte_lenr]
  bv_omega

theorem copyByte_cmode (s : State) : (copyByte s).cmode = if s.lenr - 1 = 0 then .start else s.cmode := rfl

/-- A run goes on from the state a step leads to. -/
theorem coreRun_succ (M : Host.Core) {s t : M.State} (h : M.step s = .next t) (n : Nat) : M.run (n + 1) s = M.run n t := by
  rw [Host.Core.run, h]

theorem run_succ_of_step {s t : State} (h : step s = .next t) (n : Nat) :
    Host.Core.run Sys2Proof.core (n + 1) s = Host.Core.run Sys2Proof.core n t := coreRun_succ Sys2Proof.core h n

/-- A match that has room is copied by as many micro-steps as it is long. -/
theorem run_copy {n : Nat} {s : State} (hbusy : s.busy = true) (hmode : s.mode = .blocks) (hbmode : s.bmode = .codes)
    (hcmode : s.lenr ≠ 0 → s.cmode = .copy) (hlen : s.lenr.toNat = n) (hdist : s.distr.toNat ≤ s.whave.toNat)
    (hhave : s.whave.toNat ≤ wsize s) (hroom : s.pend.toNat + n ≤ wsize s) :
    Host.Core.run Sys2Proof.core n s = .next (copyByte^[n] s) ∧ (copyByte^[n] s).lenr = 0 ∧
      (1 ≤ n → (copyByte^[n] s).cmode = .start) := by
  induction n generalizing s with
  | zero => exact ⟨rfl, BitVec.eq_of_toNat_eq hlen, fun h => absurd h (by decide)⟩
  | succ n ih =>
    have hlen0 : s.lenr ≠ 0 := fun h => by simp [h] at hlen
    have hselect : select s = .micro .copy := by rw [select_of_codes hmode hbmode, selectCodes, hcmode hlen0]
    have hstep : step s = .next (copyByte s) := by
      rw [step_of_micro hbusy hselect, runMicro, microCopy, if_neg (Nat.not_lt.2 hdist), if_neg hlen0, room_of_free (by omega)]
      rfl
    have hlenr : (copyByte s).lenr.toNat = n := by rw [copyByte_lenr_toNat (by omega), hlen, Nat.add_sub_cancel]
    have hpend : (copyByte s).pend.toNat = s.pend.toNat + 1 := winWrite_pend_toNat (winRead s.distr.toNat s) (by omega)
    have hwhave : (copyByte s).whave.toNat = min (s.whave.toNat + 1) (wsize s) := toNat_ofNat_min_wsize _ s
    have hwsize : wsize (copyByte s) = wsize s := rfl
    have hcopy : (copyByte s).lenr ≠ 0 → (copyByte s).cmode = .copy := fun h => by
      rw [copyByte_cmode, if_neg (by rwa [copyByte_lenr] at h), hcmode hlen0]
    have hdone : (copyByte s).lenr = 0 → (copyByte s).cmode = .start := fun h => by
      rw [copyByte_cmode, if_pos (by rwa [copyByte_lenr] at h)]
    obtain ⟨hrun, hzero, hstart⟩ := ih (s := copyByte s) hbusy hmode hbmode hcopy hlenr
      (by rw [hwhave, show (copyByte s).distr = s.distr from rfl]; omega) (by omega) (by omega)
    rw [Function.iterate_succ_apply]
    refine ⟨?_, hzero, fun _ => ?_⟩
    · rw [run_succ_of_step hstep, hrun]
    · cases n with
      | zero => exact hdone (BitVec.eq_of_toNat_eq hlenr)
      | succ n => exact hstart (Nat.succ_pos n)

section Window
variable {n : Nat} {s : State} (hwr : s.wr.toNat < wsize s) (hwin : winWf s.win = true)
include hwr hwin

theorem copyByte_window : (copyByte s).wr.toNat = (s.wr.toNat + 1) % wsize s ∧ winWf (copyByte s).win = true :=
  ⟨toNat_ofNat_mod_wsize _ s, winWf_winStore _ (hwr.trans_le (wsize_le s)) hwin⟩

theorem copyByte_iterate_window : (copyByte^[n] s).wr.toNat = (s.wr.toNat + n) % wsize s ∧ winWf (copyByte^[n] s).win = true := by
  induction n generalizing s with
  | zero => exact ⟨(Nat.mod_eq_of_lt hwr).symm, hwin⟩
  | succ n ih =>
    obtain ⟨hcursor, hform⟩ := copyByte_window hwr hwin
    have hnext : (copyByte s).wr.toNat < wsize (copyByte s) := hcursor ▸ Nat.mod_lt _ (wsize_pos s)
    obtain ⟨hcursors, hforms⟩ := ih hnext hform
    rw [Function.iterate_succ_apply, hcursors, hcursor, show wsize (copyByte s) = wsize s from rfl, Nat.mod_add_mod, Nat.add_assoc,
      Nat.add_comm 1]
    exact ⟨rfl, hforms⟩

/-- Older bytes move `n` further back. -/
theorem winRead_copyByte_iterate_add {d : Nat} (hpos : 1 ≤ d) (hd : d + n ≤ wsize s) :
    winRead (d + n) (copyByte^[n] s) = winRead d s := by
  induction n generalizing s d with
  | zero => rfl
  | succ n ih =>
    obtain ⟨hcursor, hform⟩ := copyByte_window hwr hwin
    have hnext : (copyByte s).wr.toNat < wsize (copyByte s) := hcursor ▸ Nat.mod_lt _ (wsize_pos s)
    rw [Function.iterate_succ_apply, ← Nat.add_assoc, Nat.add_right_comm, ih hnext hform (Nat.le_add_left 1 d)]
    · exact winRead_winWrite_succ _ hpos (by omega)
    · show d + 1 + n ≤ wsize s
      omega

/-- The `k`-th byte of a match is the byte that stood `d - k % d` back: with `k` below the distance an older byte, else a byte of the
match itself. -/
theorem winRead_copyByte_iterate {k : Nat} (hpos : 1 ≤ s.distr.toNat) (hdist : s.distr.toNat ≤ wsize s) (hn : n ≤ wsize s)
    (hk : k < n) : winRead (n - k) (copyByte^[n] s) = winRead (s.distr.toNat - k % s.distr.toNat) s := by
  induction n generalizing k with
  | zero => exact absurd hk (Nat.not_lt_zero k)
  | succ n ih =>
    have hdistr : (copyByte^[n] s).distr = s.distr := by rw [copyByte_iterate_frame]
    have hwsize : wsize (copyByte^[n] s) = wsize s := by rw [copyByte_iterate_frame]; rfl
    obtain ⟨hcursor, hform⟩ := copyByte_iterate_window (n := n) hwr hwin
    have hcursorlt : (copyByte^[n] s).wr.toNat < wsize (copyByte^[n] s) := by
      rw [hwsize, hcursor]
      exact Nat.mod_lt _ (wsize_pos s)
    rw [Function.iterate_succ_apply']
    rcases Nat.lt_succ_iff_lt_or_eq.1 hk with hlt | rfl
    · rw [← ih (by omega) hlt, Nat.sub_add_comm hlt.le]
      exact winRead_winWrite_succ _ (by omega) (by omega)
    · rw [Nat.add_sub_cancel_left,
        show winRead 1 (copyByte (copyByte^[k] s)) = winRead (copyByte^[k] s).distr.toNat (copyByte^[k] s) from
        winRead_winWrite_one _ hcursorlt (winWf_wf hform), hdistr]
      rcases Nat.lt_or_ge k s.distr.toNat with hold | hself
      · have hback := winRead_copyByte_iterate_add (n := k) (d := s.distr.toNat - k) hwr hwin (by omega) (by omega)
        rwa [Nat.sub_add_cancel hold.le, ← congrArg (s.distr.toNat - ·) (Nat.mod_eq_of_lt hold)] at hback
      · rw [Nat.mod_eq_sub_mod hself, ← ih (k := k - s.distr.toNat) (by omega) (by omega), Nat.sub_sub_self hself]

end Window

theorem copyByte_iterate_counts {n : Nat} {s : State} (hhave : s.whave.toNat ≤ wsize s) (hroom : s.pend.toNat + n ≤ wsize s) :
    (copyByte^[n] s).pend.toNat = s.pend.toNat + n ∧ (copyByte^[n] s).whave.toNat = min (s.whave.toNat + n) (wsize s) := by
  induction n generalizing s with
  | zero => exact ⟨rfl, (Nat.min_eq_left hhave).symm⟩
  | succ n ih =>
    have hpend : (copyByte s).pend.toNat = s.pend.toNat + 1 := winWrite_pend_toNat (winRead s.distr.toNat s) (by omega)
    have hwhave : (copyByte s).whave.toNat = min (s.whave.toNat + 1) (wsize s) := toNat_ofNat_min_wsize _ s
    have hwsize : wsize (copyByte s) = wsize s := rfl
    obtain ⟨hpends, hhaves⟩ := ih (s := copyByte s) (by omega) (by omega)
    rw [Function.iterate_succ_apply, hpends, hhaves]
    omega

/-- Settles O33: `LENR` micro-steps of `COPY`, each a byte read `DISTR` back and written. -/
theorem matchWritesBackReference : Obligations.MatchWritesBackReference := by
  unfold Obligations.MatchWritesBackReference
  intro s hinv hbusy hmode hbmode hcmode hlen hpos hdist hroom
  obtain ⟨-, hhave, hwr, -, -⟩ := hinv.window
  have hwin := hinv.memory.window
  obtain ⟨hrun, hzero, hstart⟩ := run_copy hbusy hmode hbmode (fun _ => hcmode) rfl hdist hhave hroom
  obtain ⟨hpend, hwhave⟩ := copyByte_iterate_counts hhave hroom
  refine ⟨copyByte^[s.lenr.toNat] s, hrun, fun k hk => winRead_copyByte_iterate hwr hwin hpos (hdist.trans hhave) (by omega) hk,
    (copyByte_iterate_window hwr hwin).1, hpend, hwhave, ?_⟩
  have hframe := copyByte_iterate_frame s.lenr.toNat s
  rwa [hzero, hstart hlen] at hframe

/-- Settles O52, field by field. -/
theorem resetStateMeetsInvariant : Obligations.ResetStateMeetsInvariant := by
  unfold Obligations.ResetStateMeetsInvariant
  constructor <;> constructor <;> decide

end Sys2Proof.Machine
end


section
/-! SUPPORT. The scan of SYNC: its automaton counts the longest end of the scanned bytes that begins the marker (R300). -/

namespace Sys2Proof.Machine

/-- The marker of R300. -/
def syncMarker : List Byte := [0x00, 0x00, 0xFF, 0xFF]

/-- `m` is the longest end of `xs` that begins the marker. -/
def Matched (m : Nat) (xs : List Byte) : Prop :=
  m ≤ 4 ∧ syncMarker.take m <:+ xs ∧ ∀ n, n ≤ 4 → syncMarker.take n <:+ xs → n ≤ m

theorem syncMarker_take_succ {n : Nat} (h : n < 4) : syncMarker.take (n + 1) = syncMarker.take n ++ [markByte n] := by
  interval_cases n <;> rfl

/-- One more byte prolongs a match by the byte the marker has there. -/
theorem take_succ_suffix_snoc_iff {n : Nat} (h : n < 4) (xs : List Byte) (b : Byte) :
    syncMarker.take (n + 1) <:+ xs ++ [b] ↔ syncMarker.take n <:+ xs ∧ b = markByte n := by
  rw [syncMarker_take_succ h, List.suffix_concat_iff]
  constructor
  · rintro (hnil | ⟨t, ht, hsuffix⟩)
    · exact absurd hnil (by simp)
    · obtain ⟨rfl, hbyte⟩ := List.append_inj' ht rfl
      exact ⟨hsuffix, (List.singleton_inj.1 hbyte).symm⟩
  · rintro ⟨hsuffix, rfl⟩
    exact .inr ⟨_, rfl, hsuffix⟩

/-- The automaton's next count is a match that the byte prolongs. -/
theorem syncNext_matches {m : Nat} (hm : m < 4) (b : Byte) :
    syncNext m b = 0 ∨ ∃ j, j ≤ m ∧ syncNext m b = j + 1 ∧ b = markByte j ∧ syncMarker.take j <:+ syncMarker.take m := by
  unfold syncNext
  split
  · exact .inr ⟨m, le_rfl, rfl, ‹_›, List.suffix_refl _⟩
  · next hne =>
    split
    · exact .inl rfl
    · next hzero =>
      obtain rfl := not_not.1 hzero
      right
      interval_cases m
      · exact absurd rfl hne
      · exact absurd rfl hne
      · exact ⟨1, by decide, rfl, rfl, by decide⟩
      · exact ⟨0, by decide, rfl, rfl, by decide⟩

/-- The automaton's next count is the longest such match. -/
theorem succ_le_syncNext {m k : Nat} (hm : m < 4) (hk : k ≤ m) (hsuffix : syncMarker.take k <:+ syncMarker.take m) :
    k + 1 ≤ syncNext m (markByte k) := by
  interval_cases m <;> interval_cases k <;> revert hsuffix <;> decide

theorem Matched.snoc {m : Nat} {xs : List Byte} (hm : m < 4) (h : Matched m xs) (b : Byte) : Matched (syncNext m b) (xs ++ [b]) := by
  obtain ⟨-, hsuffix, hmax⟩ := h
  have hnext := syncNext_matches hm b
  refine ⟨by omega, ?_, fun n hn hbegins => ?_⟩
  · obtain hzero | ⟨j, hj, hcount, hbyte, hinner⟩ := hnext
    · rw [hzero]
      exact List.nil_suffix
    · rw [hcount]
      exact (take_succ_suffix_snoc_iff (by omega) xs b).2 ⟨hinner.trans hsuffix, hbyte⟩
  · cases n with
    | zero => exact Nat.zero_le _
    | succ k =>
      obtain ⟨hshorter, rfl⟩ := (take_succ_suffix_snoc_iff hn xs b).1 hbegins
      have hkm := hmax k (by omega) hshorter
      refine succ_le_syncNext hm hkm (List.suffix_of_suffix_length_le hshorter hsuffix ?_)
      rw [List.length_take, List.length_take]
      omega

/-- What an earlier SYNC matched. -/
theorem matched_take {m : Nat} (hm : m ≤ 3) : Matched m (syncMarker.take m) := by
  refine ⟨by omega, List.suffix_refl _, fun n hn hsuffix => ?_⟩
  have hlen := hsuffix.length_le
  rw [List.length_take, List.length_take, show syncMarker.length = 4 from rfl] at hlen
  omega

theorem Matched.lt_four {m : Nat} {xs : List Byte} (h : Matched m xs) (hopen : ¬syncMarker <:+: xs) : m < 4 := by
  obtain ⟨hle, hsuffix, -⟩ := h
  refine lt_of_le_of_ne hle ?_
  rintro rfl
  exact hopen hsuffix.isInfix

theorem Matched.eq_four {m : Nat} {xs : List Byte} (h : Matched m xs) (hfound : syncMarker <:+ xs) : m = 4 := by
  obtain ⟨hle, -, hmax⟩ := h
  exact hle.antisymm (hmax 4 le_rfl hfound)

/-- As long as the marker has not been seen the automaton goes on, and counts the longest match. -/
theorem Matched.foldl {m : Nat} {seen bytes : List Byte} (h : Matched m seen)
    (hopen : ∀ j, j < bytes.length → ¬syncMarker <:+: seen ++ bytes.take j) :
    (∀ j, j < bytes.length → (bytes.take j).foldl syncNext m < 4) ∧ Matched (bytes.foldl syncNext m) (seen ++ bytes) := by
  induction bytes generalizing m seen with
  | nil => exact ⟨fun j hj => absurd hj (Nat.not_lt_zero j), by rwa [List.append_nil]⟩
  | cons b bytes ih =>
    have hm : m < 4 := h.lt_four (by simpa using hopen 0 (Nat.succ_pos _))
    obtain ⟨hbelow, hmatched⟩ := ih (h.snoc hm b) fun j hj => by simpa using hopen (j + 1) (Nat.succ_lt_succ hj)
    refine ⟨fun j hj => ?_, by simpa using hmatched⟩
    cases j with
    | zero => exact hm
    | succ j => exact hbelow j (Nat.lt_of_succ_lt_succ hj)

/-! ### The scan -/

theorem advanceIn_iterate (n : Nat) (s : State) :
    advanceIn^[n] s = { s with nextIn := s.nextIn + BitVec.ofNat 32 n, availIn := s.availIn - BitVec.ofNat 32 n,
                               totalIn := s.totalIn + BitVec.ofNat 64 n } := by
  induction n generalizing s with
  | zero =>
    rw [BitVec.add_zero, BitVec.sub_zero, BitVec.add_zero]
    rfl
  | succ n ih =>
    rw [Function.iterate_succ_apply, ih, advanceIn_nextIn, advanceIn_availIn, advanceIn_totalIn, add_one_add_ofNat, add_one_add_ofNat,
      show s.availIn - 1 - BitVec.ofNat 32 n = s.availIn - BitVec.ofNat 32 (n + 1) by bv_omega]
    rfl

/-- The scan takes bytes as long as the automaton goes on (R300). -/
theorem syncScan_add {bytes : List Byte} {k m : Nat} {s : State} (hwrap : s.nextIn.toNat + bytes.length ≤ 2 ^ 32)
    (hread : holds s.memIn s.nextIn.toNat bytes) (hbelow : ∀ j, j < bytes.length → (bytes.take j).foldl syncNext m < 4) :
    syncScan (bytes.length + k) m s = syncScan k (bytes.foldl syncNext m) (advanceIn^[bytes.length] s) := by
  induction bytes generalizing m s with
  | nil => rw [List.length_nil, Nat.zero_add, List.foldl_nil, Function.iterate_zero_apply]
  | cons b bytes ih =>
    obtain ⟨hbyte, hrest⟩ := holds_cons hread
    have hm : m < 4 := hbelow 0 (Nat.succ_pos _)
    rw [List.length_cons] at hwrap
    have hnext : (advanceIn s).nextIn.toNat + bytes.length ≤ 2 ^ 32 ∧ holds s.memIn (advanceIn s).nextIn.toNat bytes := by
      rcases Nat.eq_zero_or_pos bytes.length with hnil | hpos
      · rw [List.length_eq_zero_iff] at hnil
        subst hnil
        exact ⟨(advanceIn s).nextIn.isLt.le, fun i hi => absurd hi (Nat.not_lt_zero i)⟩
      · have hcursor : (advanceIn s).nextIn.toNat = s.nextIn.toNat + 1 := by
          rw [advanceIn_nextIn]
          bv_omega
        rw [hcursor]
        exact ⟨by omega, hrest⟩
    rw [List.length_cons, Nat.succ_add, syncScan, if_neg (Nat.not_le.2 hm), hbyte, Function.iterate_succ_apply, List.foldl_cons]
    exact ih hnext.1 hnext.2 fun j hj => hbelow (j + 1) (Nat.succ_lt_succ hj)

theorem syncScan_found (k : Nat) (s : State) : syncScan k 4 s = .ok 4 s := by
  cases k with
  | zero => rfl
  | succ k => exact if_pos le_rfl

/-! ### The command -/

/-- How much of the marker an earlier SYNC has matched (R40). -/
def heldMarks (s : State) : Nat := if s.mode = .bad then s.marker.toNat else 0

theorem abandon_eq (s : State) :
    abandon s = { s with mode := .bad, marker := if s.mode = .bad then s.marker else 0 } := by
  unfold abandon
  split
  · next hbad =>
    rw [← hbad]
  · rfl

theorem abandon_marker_toNat (s : State) : (abandon s).marker.toNat = heldMarks s := by
  rw [abandon_eq, heldMarks, apply_ite BitVec.toNat]
  rfl

theorem seen_eq (s : State) : (if s.mode = .bad then syncMarker.take s.marker.toNat else []) = syncMarker.take (heldMarks s) := by
  rw [heldMarks]
  split <;> rfl

section Sync
variable {s : State} (hown : s.own = true)
include hown

theorem exec_sync_of_refused (h : s.inBound = false ∨ inWraps s = true) : exec .sync s = .next { s with code := 0xFE } := by
  have hrefused : (!s.inBound || inWraps s) = true := by rcases h with h | h <;> simp [h]
  exact (if_pos hown).trans (if_pos hrefused)

variable (hbound : s.inBound = true) (hwrap : inWraps s = false)
include hbound hwrap

theorem exec_sync_of_noInput (havail : s.availIn = 0) : exec .sync s = .next (ret .bufError (abandon s)) := by
  have hpasses : ¬(!s.inBound || inWraps s) = true := by simp [hbound, hwrap]
  have hempty : (abandon s).availIn = 0 := by rwa [abandon_eq]
  exact (if_pos hown).trans ((if_neg hpasses).trans (if_pos hempty))

/-- Where the scan ends decides SYNC's answer (R300). -/
theorem exec_sync_of_scan {m : Nat} {u : State} (havail : s.availIn ≠ 0)
    (hscan : syncScan s.availIn.toNat (heldMarks s) (abandon s) = .ok m u) :
    exec .sync s =
      if m ≠ 4 then .next (ret .dataError { u with marker := BitVec.ofNat 3 m }) else .next (ret .ok (returnFromBad u)) := by
  have hpasses : ¬(!s.inBound || inWraps s) = true := by simp [hbound, hwrap]
  have hinput : (abandon s).availIn = s.availIn := by rw [abandon_eq]
  refine (if_pos hown).trans ((if_neg hpasses).trans ?_)
  dsimp only
  rw [if_neg (by rwa [hinput]), hinput, abandon_marker_toNat, hscan]

end Sync

/-- The state after SYNC has scanned `n` bytes. -/
theorem scanned_eq (n : Nat) (s : State) :
    advanceIn^[n] (abandon s) =
      { s with nextIn := s.nextIn + BitVec.ofNat 32 n, availIn := s.availIn - BitVec.ofNat 32 n,
               totalIn := s.totalIn + BitVec.ofNat 64 n, mode := .bad, marker := if s.mode = .bad then s.marker else 0 } := by
  rw [advanceIn_iterate, abandon_eq]

theorem heldMarks_le {s : State} (h : s.mode = .bad → s.marker.toNat ≤ 3) : heldMarks s ≤ 3 := by
  unfold heldMarks
  split
  · exact h ‹_›
  · exact Nat.zero_le 3

/-- The bytes before the last one are among those before the end. -/
theorem append_take_prefix_dropLast {seen bytes : List Byte} {j : Nat} (h : j < bytes.length) :
    seen ++ bytes.take j <+: (seen ++ bytes).dropLast := by
  have hne : bytes ≠ [] := List.ne_nil_of_length_pos (Nat.zero_lt_of_lt h)
  rw [List.dropLast_append_of_ne_nil hne, List.dropLast_eq_take]
  exact (List.prefix_append_right_inj seen).2 (List.take_prefix_take_left (Nat.le_sub_one_of_lt h))

/-- Settles O50: the automaton reaches 4 at the end of the first marker and not before. -/
theorem syncRestartsAfterFirstMarker : Obligations.SyncRestartsAfterFirstMarker := by
  unfold Obligations.SyncRestartsAfterFirstMarker
  intro s bytes after hown hbound hwrap hmarker havail hread marker seen hfound hfirst
  have hseen : seen = syncMarker.take (heldMarks s) := seen_eq s
  have hopen (j : Nat) (hj : j < bytes.length) : ¬syncMarker <:+: syncMarker.take (heldMarks s) ++ bytes.take j := by
    rw [← hseen]
    exact fun h => hfirst (h.trans (append_take_prefix_dropLast hj).isInfix)
  obtain ⟨hbelow, hmatched⟩ := (matched_take (heldMarks_le hmarker)).foldl hopen
  have hfour : bytes.foldl syncNext (heldMarks s) = 4 := hmatched.eq_four (hseen ▸ hfound)
  have hstored : holds (abandon s).memIn (abandon s).nextIn.toNat bytes := by
    rw [abandon_eq]
    intro i hi
    rw [hread i (by rw [List.length_append]; omega), List.getElem?_append_left hi]
  have hscan : syncScan s.availIn.toNat (heldMarks s) (abandon s) = .ok 4 (advanceIn^[bytes.length] (abandon s)) := by
    rw [havail, syncScan_add (by rw [abandon_eq]; show s.nextIn.toNat + bytes.length ≤ 2 ^ 32; omega) hstored hbelow, hfour,
      syncScan_found]
  have hinput : s.availIn ≠ 0 := by
    intro hzero
    have hempty : bytes = [] := List.length_eq_zero_iff.1 (by rw [hzero] at havail; simp at havail; omega)
    have hlen : syncMarker.length ≤ (seen ++ bytes).length := hfound.length_le
    rw [hempty, List.append_nil, hseen, List.length_take, show syncMarker.length = 4 from rfl] at hlen
    have := heldMarks_le hmarker
    omega
  have hleft : s.availIn - BitVec.ofNat 32 bytes.length = BitVec.ofNat 32 after.length := by bv_omega
  rw [exec_sync_of_scan hown hbound ((inWraps_eq_false_iff s).2 hwrap) hinput hscan, if_neg (by decide), scanned_eq, hleft]
  rfl

/-- Settles O51: the automaton never reaches 4, and counts the longest match at the end of the input. -/
theorem syncWithoutMarkerLeavesStreamBad : Obligations.SyncWithoutMarkerLeavesStreamBad := by
  unfold Obligations.SyncWithoutMarkerLeavesStreamBad
  refine ⟨fun s hown => ⟨fun h => exec_sync_of_refused hown (h.imp_right decide_eq_true), fun hbound havail => ?_⟩, ?_⟩
  · have hwrap : inWraps s = false := by
      rw [inWraps_eq_false_iff, havail]
      exact s.nextIn.isLt.le
    rw [exec_sync_of_noInput hown hbound hwrap havail, abandon_eq]
    rfl
  · intro s bytes hown hbound hwrap hmarker havail hne hread marker seen habsent
    have hseen : seen = syncMarker.take (heldMarks s) := seen_eq s
    rw [hseen] at habsent ⊢
    have hopen (j : Nat) (_ : j < bytes.length) : ¬syncMarker <:+: syncMarker.take (heldMarks s) ++ bytes.take j :=
      fun h => habsent (h.trans ((List.prefix_append_right_inj _).2 (List.take_prefix j bytes)).isInfix)
    obtain ⟨hbelow, hmatched⟩ := (matched_take (heldMarks_le hmarker)).foldl hopen
    have hlt := hmatched.lt_four habsent
    have hstored : holds (abandon s).memIn (abandon s).nextIn.toNat bytes := by
      rwa [abandon_eq]
    have hscan : syncScan s.availIn.toNat (heldMarks s) (abandon s) =
        .ok (bytes.foldl syncNext (heldMarks s)) (advanceIn^[bytes.length] (abandon s)) := by
      rw [havail, ← Nat.add_zero bytes.length,
        syncScan_add (by rw [abandon_eq]; show s.nextIn.toNat + bytes.length ≤ 2 ^ 32; omega) hstored hbelow]
      rfl
    have hinput : s.availIn ≠ 0 := fun hzero => hne (List.length_eq_zero_iff.1 (by rw [← havail, hzero]; rfl))
    have hall : BitVec.ofNat 32 bytes.length = s.availIn := by rw [← havail, BitVec.ofNat_toNat, BitVec.setWidth_eq]
    obtain ⟨-, hsuffix, hmax⟩ := hmatched
    refine ⟨bytes.foldl syncNext (heldMarks s), by omega, hsuffix, fun n hn => hmax n (by omega), ?_⟩
    rw [exec_sync_of_scan hown hbound ((inWraps_eq_false_iff s).2 hwrap) hinput hscan, if_pos (by omega), scanned_eq, hall,
      BitVec.sub_self]
    rfl

end Sys2Proof.Machine
end


section
/-! SUPPORT. What a step of the running engine can do, said once (R9, R290): it reaches a state by deliveries and pulls, and there a
micro-step acts, or the STEP ends. -/

namespace Sys2Proof.Machine

/-! ### Pulls that are needed -/

/-- Pulls, each made while fewer than `n` bits were held (R142, R176). -/
inductive PullsBelow (n : Nat) : State → State → Prop where
  | refl (s : State) : PullsBelow n s s
  | pull {s t u : State} (hbits : s.bitk.toNat < n) (hpull : Machine.pull s = .ok () t) (hrest : PullsBelow n t u) : PullsBelow n s u

theorem PullsBelow.trans {n : Nat} {s t u : State} (h : PullsBelow n s t) (g : PullsBelow n t u) : PullsBelow n s u := by
  induction h with
  | refl s => exact g
  | pull hbits hpull _ ih => exact .pull hbits hpull (ih g)

theorem PullsBelow.mono {m n : Nat} {s t : State} (hmn : m ≤ n) (h : PullsBelow m s t) : PullsBelow n s t := by
  induction h with
  | refl s => exact .refl s
  | pull hbits hpull _ ih => exact .pull (hbits.trans_le hmn) hpull ih

theorem PullsBelow.pulled {n : Nat} {s t : State} (h : PullsBelow n s t) : Pulled s t := by
  induction h with
  | refl s => exact .refl s
  | pull _ hpull _ ih => exact (pull_pulled hpull).trans ih

theorem pulls_pullsBelow {k n : Nat} {s t : State} (hn : n ≤ 56) (hbits : s.bitk.toNat + 8 * k < n + 8) (h : pulls k s = .ok () t) :
    PullsBelow n s t := by
  induction k generalizing s with
  | zero =>
    cases h
    exact .refl _
  | succ k ih =>
    obtain ⟨_, u, hpull, hrest⟩ := Got.bind_ok h
    have hcount : u.bitk.toNat = s.bitk.toNat + 8 := by
      obtain ⟨-, b, -, rfl⟩ := pull_ok hpull
      exact pull_bitk b s (by omega)
    exact .pull (by omega) hpull (ih (by omega) hrest)

theorem needBits_pullsBelow {n : Nat} {s t : State} (hn : n ≤ 56) (h : needBits n s = .ok () t) : PullsBelow n s t := by
  rcases Nat.le_total n s.bitk.toNat with hheld | hshort
  · rw [needBits_enough hheld] at h
    cases h
    exact .refl _
  · exact pulls_pullsBelow hn (by omega) h

theorem needBits_stop_pullsBelow {n : Nat} {s t : State} {r : Stop} (hn : n ≤ 56) (h : needBits n s = .stop r t) :
    PullsBelow n s t := by
  obtain ⟨j, hj, hpulls, -⟩ := pulls_stop h
  exact pulls_pullsBelow hn (by omega) hpulls

theorem shortBefore_pullsBelow {tab : List Entry} {base width j : Nat} {s t : State} (hbefore : ShortBefore tab base width j s)
    (h : pulls j s = .ok () t) : PullsBelow 15 s t := by
  induction j generalizing s with
  | zero =>
    cases h
    exact .refl _
  | succ j ih =>
    obtain ⟨_, u, hpull, hrest⟩ := Got.bind_ok h
    have hshort := hbefore 0 (Nat.succ_pos j) s rfl
    exact .pull (hshort.trans_le (entry_bits_le _)) hpull (ih (shortBefore_of_succ hpull hbefore) hrest)

theorem lookup_pullsBelow {tab : List Entry} {base width : Nat} {s t : State} {e : Entry} (h : lookup tab base width s = .ok e t) :
    PullsBelow 15 s t := by
  obtain ⟨-, j, -, hpulls, hbefore⟩ := lookupLoop_ok h
  exact shortBefore_pullsBelow hbefore hpulls

theorem lookup_stop_pullsBelow {tab : List Entry} {base width : Nat} {s t : State} {r : Stop}
    (h : lookup tab base width s = .stop r t) : PullsBelow 15 s t := by
  obtain ⟨-, -, j, -, hpulls, hbefore⟩ := lookupLoop_stop h
  exact shortBefore_pullsBelow hbefore hpulls

theorem clExtra_le (e : Entry) : clExtra e ≤ 7 := by
  by_cases h : entryClass e.op = .lit
  · rw [clExtra_of_lit h]
    split_ifs <;> decide
  · rw [clExtra_of_not_lit h]
    decide

theorem clBits_le (e : Entry) : e.bits.toNat + clExtra e ≤ 22 := by
  have := entry_bits_le e
  have := clExtra_le e
  omega

theorem fetchCl_stop_pullsBelow {s t : State} {r : Stop} (h : fetchCl s = .stop r t) : PullsBelow 22 s t := by
  obtain hlookup | ⟨e, u, hlookup, hrest⟩ := Got.bind_stop h
  · exact (lookup_stop_pullsBelow hlookup).mono (by decide)
  · refine ((lookup_pullsBelow hlookup).mono (by decide)).trans ?_
    split at hrest
    · cases hrest
    · obtain hneed | ⟨_, _, -, hok⟩ := Got.bind_stop hrest
      · exact (needBits_stop_pullsBelow ((clBits_le e).trans (by decide)) hneed).mono (clBits_le e)
      · cases hok

/-- A code-length symbol's fetch is a lookup, and then the pulls for the code with its extra bits (R201, R202). -/
theorem fetchCl_ok {s u : State} {e : Entry} (h : fetchCl s = .ok e u) :
    ∃ t, lookup s.ct 0 7 s = .ok e t ∧ needBits (e.bits.toNat + clExtra e) t = .ok () u ∨
      lookup s.ct 0 7 s = .ok e u ∧ clExtra e = 0 := by
  obtain ⟨e', t, hlookup, hrest⟩ := Got.bind_ok h
  refine ⟨t, ?_⟩
  split at hrest
  · next hnone =>
    cases hrest
    exact .inr ⟨hlookup, hnone⟩
  · obtain ⟨_, v, hneed, hok⟩ := Got.bind_ok hrest
    cases hok
    exact .inl ⟨hlookup, hneed⟩

theorem fetchCl_pullsBelow {s u : State} {e : Entry} (h : fetchCl s = .ok e u) : PullsBelow 22 s u := by
  obtain ⟨t, ⟨hlookup, hneed⟩ | ⟨hlookup, -⟩⟩ := fetchCl_ok h
  · exact ((lookup_pullsBelow hlookup).mono (by decide)).trans
      ((needBits_pullsBelow ((clBits_le e).trans (by decide)) hneed).mono (clBits_le e))
  · exact (lookup_pullsBelow hlookup).mono (by decide)

/-- The entry of a code-length symbol is one of the table. -/
theorem fetchCl_entry {s u : State} {e : Entry} (h : fetchCl s = .ok e u) : ∃ i, e = entryAt s.ct i := by
  obtain ⟨t, ⟨hlookup, -⟩ | ⟨hlookup, -⟩⟩ := fetchCl_ok h <;> exact ⟨_, (lookupLoop_ok hlookup).1⟩

/-! ### Reached states, fetches, acts and ends -/

/-- `u` is reached from `s` by delivering the pending bytes that fit, or none, and by pulls; only the stored length field asks
for more than 25 bits. -/
def Reached (s u : State) : Prop :=
  ∃ v n, (v = s ∨ v = flush s) ∧ PullsBelow n v u ∧ (n ≤ 25 ∨ n ≤ 32 ∧ s.mode = .blocks ∧ s.bmode = .lens)

theorem Reached.refl (s : State) : Reached s s := ⟨s, 0, .inl rfl, .refl s, .inl (by decide)⟩

theorem reached_flush (s : State) : Reached s (flush s) := ⟨flush s, 0, .inr rfl, .refl _, .inl (by decide)⟩

theorem reached_of_pulls {n : Nat} {s u : State} (h : PullsBelow n s u) (hn : n ≤ 25) : Reached s u := ⟨s, n, .inl rfl, h, .inl hn⟩

/-- How `n` bits come to be held for a micro-step: the bits of a field, after a delivery perhaps, or a symbol's code. -/
inductive Fetch (s : State) : Nat → State → Prop where
  | field {v u : State} {n : Nat} (hv : v = s ∨ v = flush s) (hneed : needBits n v = .ok () u)
      (hn : n ≤ 25 ∨ n ≤ 32 ∧ s.mode = .blocks ∧ s.bmode = .lens) : Fetch s n u
  | len {u : State} {e : Entry} (hcmode : s.bmode = .codes ∧ s.cmode = .len)
      (hlookup : lookup s.lt s.tptr.toNat s.tneed.toNat s = .ok e u) : Fetch s e.bits.toNat u
  | dist {u : State} {e : Entry} (hcmode : s.bmode = .codes ∧ s.cmode = .dist)
      (hlookup : lookup s.dt s.tptr.toNat s.tneed.toNat s = .ok e u) : Fetch s e.bits.toNat u
  | cl {u : State} {e : Entry} (hfetch : fetchCl s = .ok e u) : Fetch s (e.bits.toNat + clExtra e) u

theorem fetch_none (s : State) : Fetch s 0 s := .field (.inl rfl) (needBits_enough (Nat.zero_le _)) (.inl (by decide))

theorem fetch_none_flush (s : State) : Fetch s 0 (flush s) := .field (.inr rfl) (needBits_enough (Nat.zero_le _)) (.inl (by decide))

theorem Fetch.reached {s u : State} {n : Nat} (h : Fetch s n u) : Reached s u := by
  cases h with
  | field hv hneed hn => exact ⟨_, n, hv, needBits_pullsBelow (by omega) hneed, hn⟩
  | len _ hlookup => exact reached_of_pulls (lookup_pullsBelow hlookup) (by decide)
  | dist _ hlookup => exact reached_of_pulls (lookup_pullsBelow hlookup) (by decide)
  | cl hfetch => exact reached_of_pulls (fetchCl_pullsBelow hfetch) (by decide)

/-- What a micro-step does when it is committed, with the element's `n` bits held: one row for each (R191 to R237, R291 to R296).
Each row is an update of `u`, so that what it leaves unchanged is seen at once. -/
inductive Acts : Nat → State → State → Prop where
  | cmf {u : State} {c : Byte} (hmode : u.mode = .method) (hsize : fieldAt c.toNat 4 4 + 8 ≤ u.wbitsCfg.toNat) :
      Acts 8 u { u with bitb := (consume 8 u).bitb, bitk := (consume 8 u).bitk, methodr := c, mode := .flag }
  | flg {u : State} {m : Mode} (hmode : u.mode = .flag) (hm : m = .dict4 ∨ m = .blocks) :
      Acts 8 u { u with
        bitb := (consume 8 u).bitb, bitk := (consume 8 u).bitk, wr := 0, rd := 0, pend := 0, whave := 0
        wbits := BitVec.ofNat 4 (fieldAt u.methodr.toNat 4 4 + 8), mode := m }
  | dictid {u : State} {k : Fin 4} {w : Word} (hmode : beforeBlocks u.mode = true) :
      Acts 8 u { u with bitb := (consume 8 u).bitb, bitk := (consume 8 u).bitk, needw := w, mode := afterDict k }
  | adler32 {u : State} {k : Fin 4} {w : Word} (hmode : u.mode ≠ .bad) :
      Acts 8 u { u with bitb := (consume 8 u).bitb, bitk := (consume 8 u).bitk, needw := w, mode := afterCheck k }
  | blkStored {u : State} {final : Bool} (hmode : u.mode = .blocks) (hbmode : u.bmode = .type) :
      Acts 3 u { u with
        bitb := (alignBits (takeHeader final u)).bitb, bitk := (alignBits (takeHeader final u)).bitk, last := final, bmode := .lens }
  | blkFixed {u : State} {final : Bool} (hmode : u.mode = .blocks) (hbmode : u.bmode = .type) :
      Acts 3 u { u with
        bitb := (consume 3 u).bitb, bitk := (consume 3 u).bitk, last := final, lt := fixedLt, dt := fixedDt
        lbits := BitVec.ofNat 4 Config.lroot, dbits := BitVec.ofNat 4 Config.fdroot, bmode := .codes, cmode := .start }
  | blkDynamic {u : State} {final : Bool} (hmode : u.mode = .blocks) (hbmode : u.bmode = .type) :
      Acts 3 u { u with bitb := (consume 3 u).bitb, bitk := (consume 3 u).bitk, last := final, bmode := .table }
  | align {u : State} (hmode : u.mode = .blocks) (hbmode : u.bmode = .bdone) :
      Acts 0 u { u with bitb := (alignBits u).bitb, bitk := (alignBits u).bitk, wasw := u.adler, mode := .check4 }
  | stlen {u : State} {len : BitVec 16} (hmode : u.mode = .blocks) (hbmode : u.bmode = .lens) :
      Acts 32 u { u with
        bitb := (consume 32 u).bitb, bitk := (consume 32 u).bitk, left := len
        bmode := if len = 0 then afterBlock u else .stored }
  | raw {u : State} {b : Byte} (hmode : u.mode = .blocks) (hbmode : u.bmode = .stored) (hroom : u.pend.toNat ≠ wsize u) :
      Acts 8 u { u with
        bitb := (consume 8 u).bitb, bitk := (consume 8 u).bitk
        win := (winWrite b u).win, wr := (winWrite b u).wr, pend := (winWrite b u).pend, whave := (winWrite b u).whave
        left := u.left - 1, bmode := if u.left - 1 = 0 then afterBlock u else .stored }
  | counts {u : State} {hlit hdist : BitVec 5} {hclen : BitVec 4} (hmode : u.mode = .blocks) (hbmode : u.bmode = .table)
      (hl : hlit.toNat ≤ 29) (hd : hdist.toNat ≤ 29) :
      Acts 14 u { u with
        bitb := (consume 14 u).bitb, bitk := (consume 14 u).bitk, nlen := BitVec.ofNat 9 (hlit.toNat + 257)
        ndist := BitVec.ofNat 5 (hdist.toNat + 1), nclen := BitVec.ofNat 5 (hclen.toNat + 4)
        index := 0, cllens := Vector.replicate 19 0, bmode := .btree }
  | cll {u : State} {cllens : Vector (BitVec 3) 19} (hmode : u.mode = .blocks) (hbmode : u.bmode = .btree)
      (hindex : u.index.toNat < u.nclen.toNat) :
      Acts 3 u { u with bitb := (consume 3 u).bitb, bitk := (consume 3 u).bitk, cllens := cllens, index := u.index + 1 }
  | lengths {u : State} {e : Entry} {i j n : Nat} {lens : Vector (BitVec 4) 316} (hmode : u.mode = .blocks)
      (hbmode : u.bmode = .dtree) (he : e = entryAt u.ct i) (hclass : entryClass e.op = .lit) (hn : n = e.bits.toNat + clExtra e)
      (hj : j ≤ 138) (hfit : u.index.toNat + j ≤ u.nlen.toNat + u.ndist.toNat) :
      Acts n u { u with
        bitb := (consume n u).bitb, bitk := (consume n u).bitk, lens := lens, index := u.index + BitVec.ofNat 9 j }
  | literal {u : State} {e : Entry} {b : Byte} (hmode : u.mode = .blocks) (hbmode : u.bmode = .codes) (hcmode : u.cmode = .len)
      (he : e = chosenEntry u.lt u.tptr.toNat u.tneed.toNat u) (hclass : entryClass e.op = .lit) :
      Acts e.bits.toNat u { u with
        bitb := (consume e.bits.toNat u).bitb, bitk := (consume e.bits.toNat u).bitk, litv := b, cmode := .lit }
  | endOfBlock {u : State} {e : Entry} (hmode : u.mode = .blocks) (hbmode : u.bmode = .codes) (hcmode : u.cmode = .len)
      (he : e = chosenEntry u.lt u.tptr.toNat u.tneed.toNat u) (hclass : entryClass e.op = .eob) :
      Acts e.bits.toNat u { u with
        bitb := (consume e.bits.toNat u).bitb, bitk := (consume e.bits.toNat u).bitk, cmode := .wash }
  | length {u : State} {e : Entry} {x : BitVec 4} {r : BitVec 9} (hmode : u.mode = .blocks) (hbmode : u.bmode = .codes)
      (hcmode : u.cmode = .len) (he : e = chosenEntry u.lt u.tptr.toNat u.tneed.toNat u) (hclass : entryClass e.op = .base x) :
      Acts e.bits.toNat u { u with
        bitb := (consume e.bits.toNat u).bitb, bitk := (consume e.bits.toNat u).bitk, lenr := r, ext := x, cmode := .lenext }
  | linkLen {u : State} {e : Entry} {w : BitVec 4} (hmode : u.mode = .blocks) (hbmode : u.bmode = .codes) (hcmode : u.cmode = .len)
      (he : e = chosenEntry u.lt u.tptr.toNat u.tneed.toNat u) (hclass : entryClass e.op = .link w) :
      Acts e.bits.toNat u { u with
        bitb := (consume e.bits.toNat u).bitb, bitk := (consume e.bits.toNat u).bitk, tptr := e.val, tneed := w }
  | distance {u : State} {e : Entry} {x : BitVec 4} (hmode : u.mode = .blocks) (hbmode : u.bmode = .codes)
      (hcmode : u.cmode = .dist) (he : e = chosenEntry u.dt u.tptr.toNat u.tneed.toNat u) (hclass : entryClass e.op = .base x) :
      Acts e.bits.toNat u { u with
        bitb := (consume e.bits.toNat u).bitb, bitk := (consume e.bits.toNat u).bitk, distr := e.val, ext := x, cmode := .distext }
  | linkDist {u : State} {e : Entry} {w : BitVec 4} (hmode : u.mode = .blocks) (hbmode : u.bmode = .codes) (hcmode : u.cmode = .dist)
      (he : e = chosenEntry u.dt u.tptr.toNat u.tneed.toNat u) (hclass : entryClass e.op = .link w) :
      Acts e.bits.toNat u { u with
        bitb := (consume e.bits.toNat u).bitb, bitk := (consume e.bits.toNat u).bitk, tptr := e.val, tneed := w }
  | lenExtra {u : State} {r : BitVec 9} (hmode : u.mode = .blocks) (hbmode : u.bmode = .codes) (hcmode : u.cmode = .lenext) :
      Acts u.ext.toNat u { u with
        bitb := (consume u.ext.toNat u).bitb, bitk := (consume u.ext.toNat u).bitk, lenr := r
        tptr := 0, tneed := u.dbits, cmode := .dist }
  | distExtra {u : State} {d : BitVec 16} (hmode : u.mode = .blocks) (hbmode : u.bmode = .codes) (hcmode : u.cmode = .distext) :
      Acts u.ext.toNat u { u with
        bitb := (consume u.ext.toNat u).bitb, bitk := (consume u.ext.toNat u).bitk, distr := d, cmode := .copy }
  | start {u : State} (hmode : u.mode = .blocks) (hbmode : u.bmode = .codes) (hcmode : u.cmode = .start) :
      Acts 0 u { u with tptr := 0, tneed := u.lbits, cmode := .len }
  | litWrite {u : State} {b : Byte} (hmode : u.mode = .blocks) (hbmode : u.bmode = .codes) (hcmode : u.cmode = .lit)
      (hroom : u.pend.toNat ≠ wsize u) :
      Acts 0 u { u with
        win := (winWrite b u).win, wr := (winWrite b u).wr, pend := (winWrite b u).pend, whave := (winWrite b u).whave
        cmode := .start }
  | copyDone {u : State} (hmode : u.mode = .blocks) (hbmode : u.bmode = .codes) (hcmode : u.cmode = .copy) :
      Acts 0 u { u with cmode := .start }
  | copyByte {u : State} {b : Byte} (hmode : u.mode = .blocks) (hbmode : u.bmode = .codes) (hcmode : u.cmode = .copy)
      (hlen : u.lenr ≠ 0) (hroom : u.pend.toNat ≠ wsize u) :
      Acts 0 u { u with
        win := (winWrite b u).win, wr := (winWrite b u).wr, pend := (winWrite b u).pend, whave := (winWrite b u).whave
        lenr := u.lenr - 1, cmode := if u.lenr - 1 = 0 then .start else u.cmode }
  | wash {u : State} (hmode : u.mode = .blocks) (hbmode : u.bmode = .codes) (hcmode : u.cmode = .wash) :
      Acts 0 u { u with cmode := .blockEnd }
  | blockEnd {u : State} (hmode : u.mode = .blocks) (hbmode : u.bmode = .codes) (hcmode : u.cmode = .blockEnd) :
      Acts 0 u { u with bmode := afterBlock u }
  | buildCl {u : State} {tab : List Entry} (hmode : u.mode = .blocks) (hbmode : u.bmode = .btree)
      (hbuild : build (clLens u) Config.clroot .cl = .ok tab) : Acts 0 u { u with ct := tab, index := 0, bmode := .dtree }
  | buildCodes {u : State} {lt dt : List Entry} (hmode : u.mode = .blocks) (hbmode : u.bmode = .dtree)
      (hlt : build (lensSlice 0 u.nlen.toNat u) Config.lroot .ll = .ok lt)
      (hdt : build (lensSlice u.nlen.toNat u.ndist.toNat u) Config.droot .d = .ok dt ∨
        build (lensSlice u.nlen.toNat u.ndist.toNat u) Config.droot .d = .empty dt) :
      Acts 0 u { u with
        lt := lt, dt := dt, lbits := BitVec.ofNat 4 Config.lroot, dbits := BitVec.ofNat 4 Config.droot
        bmode := .codes, cmode := .start }
  | dry {u : State} (hmode : u.mode = .blocks) (hbmode : u.bmode = .dry) : Acts 0 u { u with bmode := .bdone }
  | bdoneRaw {u : State} (hmode : u.mode = .blocks) (hbmode : u.bmode = .bdone) : Acts 0 u { u with mode := .done }

/-- The fatal errors, with the sub-state writes of R331. -/
inductive Raises (u : State) : State → Prop where
  | plain {id : Nat} (hid : id ≤ 15) : Raises u (raise id u)
  | block {id : Nat} (hid : id ≤ 15) : Raises u (raiseBlock id u)
  | codes {id : Nat} (hid : id ≤ 15) : Raises u (raiseCodes id u)

/-- What a step of the running engine does. -/
inductive EngineStep (s : State) : State → Prop where
  | commits {n : Nat} {u t : State} (hfetch : Fetch s n u) (hacts : Acts n u t) : EngineStep s t
  | stops {r : Stop} {u : State} (hreached : Reached s u) : EngineStep s (finish r u)
  | raises {u t : State} (hreached : Reached s u) (hraises : Raises u t) : EngineStep s t

end Sys2Proof.Machine
end


section
/-! SUPPORT. Every step of the running engine is one of `EngineStep` (R9, R290). -/

namespace Sys2Proof.Machine

/-- What an outcome does to the state that holds the element's bits: it commits a micro-step or raises a fatal error. -/
def Does (n : Nat) (u : State) (o : Host.Outcome State Fault Refusal) : Prop := ∀ t, o = .next t → Acts n u t ∨ Raises u t

section Does
variable {n : Nat} {u t : State}

theorem Acts.does (h : Acts n u t) : Does n u (.next t) := by
  rintro _ ⟨⟩
  exact .inl h

theorem Raises.does (h : Raises u t) : Does n u (.next t) := by
  rintro _ ⟨⟩
  exact .inr h

theorem Does.ite {p : Prop} [Decidable p] {o q : Host.Outcome State Fault Refusal} (ho : p → Does n u o) (hq : ¬p → Does n u q) :
    Does n u (if p then o else q) := iteInduction ho hq

theorem raises_invalid (k : Kind) (u : State) : Raises u (raiseInvalid k u) := by
  cases k with
  | cl => exact .block (by decide)
  | ll => exact .codes (by decide)
  | d => exact .codes (by decide)

end Does

/-! ### The elements -/

section Elements
variable {u : State}

theorem does_cmf (hmode : u.mode = .method) (c : Byte) : Does 8 u (exec (.cmf c) u) :=
  .ite (fun _ => (Raises.plain (by decide)).does) fun _ =>
    .ite (fun _ => (Raises.plain (by decide)).does) fun hsize => (Acts.cmf hmode (not_lt.1 hsize)).does

theorem does_flg (hmode : u.mode = .flag) (f : Byte) : Does 8 u (exec (.flg f) u) :=
  .ite (fun _ => (Raises.plain (by decide)).does) fun _ =>
    (Acts.flg hmode (by split <;> simp)).does

theorem does_dictid (hmode : beforeBlocks u.mode = true) (k : Fin 4) (b : Byte) : Does 8 u (exec (.dictid k b) u) :=
  (Acts.dictid hmode).does

theorem does_adler32 (hmode : u.mode ≠ .bad) (k : Fin 4) (b : Byte) : Does 8 u (exec (.adler32 k b) u) :=
  .ite (fun _ => (Raises.plain (by decide)).does) fun _ => (Acts.adler32 hmode).does

theorem takeHeader_eq (final : Bool) (u : State) :
    takeHeader final u = { u with bitb := (consume 3 u).bitb, bitk := (consume 3 u).bitk, last := final } := rfl

theorem does_blkFixed (hmode : u.mode = .blocks) (hbmode : u.bmode = .type) (final : Bool) : Does 3 u (exec (.blkFixed final) u) := by
  show Does 3 u (execBlkFixed final u)
  rw [execBlkFixed, takeHeader_eq]
  exact (Acts.blkFixed hmode hbmode).does

theorem does_blkStored (hmode : u.mode = .blocks) (hbmode : u.bmode = .type) (final : Bool) :
    Does 3 u (exec (.blkStored final) u) := by
  have haligned : alignStored (takeHeader final u) = { takeHeader final u with
      bitb := (alignBits (takeHeader final u)).bitb, bitk := (alignBits (takeHeader final u)).bitk, bmode := .lens } := rfl
  show Does 3 u (.next (alignStored (takeHeader final u)))
  rw [haligned]
  exact (Acts.blkStored hmode hbmode).does

theorem does_blkDynamic (hmode : u.mode = .blocks) (hbmode : u.bmode = .type) (final : Bool) :
    Does 3 u (exec (.blkDynamic final) u) := by
  show Does 3 u (.next { takeHeader final u with bmode := .table })
  rw [takeHeader_eq]
  exact (Acts.blkDynamic hmode hbmode).does

theorem does_header (hmode : u.mode = .blocks) (hbmode : u.bmode = .type) (bits : Nat) : Does 3 u (exec (decodeHeader bits) u) := by
  unfold decodeHeader
  split
  · exact does_blkStored hmode hbmode _
  · exact does_blkFixed hmode hbmode _
  · exact does_blkDynamic hmode hbmode _
  · exact (Raises.block (by decide)).does

theorem does_align (hmode : u.mode = .blocks) (hbmode : u.bmode = .bdone) (n : BitVec 3) (pad : BitVec 7) :
    Does 0 u (exec (.align n pad) u) := by
  rw [exec_align_of_done hbmode]
  exact (Acts.align hmode hbmode).does

theorem does_stlen (hmode : u.mode = .blocks) (hbmode : u.bmode = .lens) (len nlen : BitVec 16) :
    Does 32 u (exec (.stlen len nlen) u) :=
  .ite (fun _ => (Raises.block (by decide)).does) fun _ => (Acts.stlen hmode hbmode).does

theorem does_raw (hmode : u.mode = .blocks) (hbmode : u.bmode = .stored) (hroom : u.pend.toNat ≠ wsize u) (b : Byte) :
    Does 8 u (exec (.raw b) u) := by
  have hexec : exec (.raw b) u = .next { consume 8 (winWrite b u) with
      left := u.left - 1, bmode := if u.left - 1 = 0 then afterBlock u else .stored } := by
    show execRaw b u = _
    rw [execRaw, room_of_free hroom, ← hbmode]
    rfl
  rw [hexec]
  exact (Acts.raw hmode hbmode hroom).does

theorem does_counts (hmode : u.mode = .blocks) (hbmode : u.bmode = .table) (hlit hdist : BitVec 5) (hclen : BitVec 4) :
    Does 14 u (exec (.counts hlit hdist hclen) u) :=
  .ite (fun _ => (Raises.block (by decide)).does) fun hle =>
    (Acts.counts hmode hbmode (not_lt.1 fun h => hle (.inl h)) (not_lt.1 fun h => hle (.inr h))).does

theorem does_cll (hmode : u.mode = .blocks) (hbmode : u.bmode = .btree) (hindex : u.index.toNat < u.nclen.toNat) (l : BitVec 3) :
    Does 3 u (exec (.cll l) u) := (Acts.cll hmode hbmode hindex).does

theorem does_lenExtra (hmode : u.mode = .blocks) (hbmode : u.bmode = .codes) (hcmode : u.cmode = .lenext) (x : BitVec 15) :
    Does u.ext.toNat u (exec (.lenExtra u.ext x) u) := (Acts.lenExtra hmode hbmode hcmode).does

theorem does_distExtra (hmode : u.mode = .blocks) (hbmode : u.bmode = .codes) (hcmode : u.cmode = .distext) (x : BitVec 15) :
    Does u.ext.toNat u (exec (.distExtra u.ext x) u) := (Acts.distExtra hmode hbmode hcmode).does

/-- A symbol of `LT`, by its class (R222 to R227). -/
theorem does_len {e : Entry} (hmode : u.mode = .blocks) (hbmode : u.bmode = .codes) (hcmode : u.cmode = .len)
    (he : e = chosenEntry u.lt u.tptr.toNat u.tneed.toNat u) : Does e.bits.toNat u (exec (decodeEntry e) u) := by
  have hk : lookupKind u = .ll := lookupKind_other (by simp [hbmode]) (by simp [hcmode])
  cases hclass : entryClass e.op with
  | lit =>
    rw [decodeEntry_lit hclass, exec_tLit_ll _ _ _ hk]
    exact (Acts.literal hmode hbmode hcmode he hclass).does
  | link w =>
    rw [decodeEntry_link hclass, exec_tLink _ _ _ _ (by simp [hk])]
    exact (Acts.linkLen hmode hbmode hcmode he hclass).does
  | base x =>
    rw [decodeEntry_base hclass, exec_tBase_ll _ _ _ _ hk]
    exact (Acts.length hmode hbmode hcmode he hclass).does
  | eob =>
    rw [decodeEntry_eob hclass, exec_tEob_ll _ _ _ hk]
    exact (Acts.endOfBlock hmode hbmode hcmode he hclass).does
  | invalid =>
    rw [decodeEntry_invalid hclass, exec_tInvalid _ _ _ _ hk]
    exact (raises_invalid .ll u).does

/-- A symbol of `DT`, by its class (R229 to R232). -/
theorem does_dist {e : Entry} (hmode : u.mode = .blocks) (hbmode : u.bmode = .codes) (hcmode : u.cmode = .dist)
    (he : e = chosenEntry u.dt u.tptr.toNat u.tneed.toNat u) : Does e.bits.toNat u (exec (decodeEntry e) u) := by
  have hk : lookupKind u = .d := lookupKind_dist (by simp [hbmode]) hcmode
  cases hclass : entryClass e.op with
  | lit =>
    rw [decodeEntry_lit hclass, exec_tLit_d _ _ _ hk]
    exact (raises_invalid .d u).does
  | link w =>
    rw [decodeEntry_link hclass, exec_tLink _ _ _ _ (by simp [hk])]
    exact (Acts.linkDist hmode hbmode hcmode he hclass).does
  | base x =>
    rw [decodeEntry_base hclass, exec_tBase_d _ _ _ _ hk]
    exact (Acts.distance hmode hbmode hcmode he hclass).does
  | eob =>
    rw [decodeEntry_eob hclass, exec_tEob_other _ _ _ (by decide) hk]
    exact (raises_invalid .d u).does
  | invalid =>
    rw [decodeEntry_invalid hclass, exec_tInvalid _ _ _ _ hk]
    exact (raises_invalid .d u).does

/-- Lengths are written only when they fit (R202 to R204). -/
theorem acts_putLens {e : Entry} {i j : Nat} {v : BitVec 4} (hmode : u.mode = .blocks) (hbmode : u.bmode = .dtree)
    (he : e = entryAt u.ct i) (hclass : entryClass e.op = .lit) (hj : j ≤ 138) {w : Nat} (hw : w = e.bits.toNat + clExtra e)
    (hfit : lensFit j u = true) : Acts (e.bits.toNat + clExtra e) u (putLens w j v u) := by
  rw [← hw]
  exact .lengths hmode hbmode he hclass hw hj ((lensFit_iff j u).1 hfit)

/-- A symbol of `CT` (R201 to R205). -/
theorem does_cl {e : Entry} {i : Nat} (hmode : u.mode = .blocks) (hbmode : u.bmode = .dtree)
    (hindex : u.index.toNat < u.nlen.toNat + u.ndist.toNat) (he : e = entryAt u.ct i) :
    Does (e.bits.toNat + clExtra e) u (exec (decodeEntry e) u) := by
  have hk : lookupKind u = .cl := lookupKind_dtree hbmode
  by_cases hclass : entryClass e.op = .lit
  · have hextra := clExtra_of_lit hclass
    rw [exec_decodeEntry_cl_of_lit hk hclass]
    rintro _ ⟨⟩
    unfold clSymbol
    split_ifs with h15 h16 h17 h18
    · have hnone : clExtra e = 0 := by rw [hextra]; split_ifs <;> omega
      exact .inl (acts_putLens hmode hbmode he hclass (by decide) (by rw [hnone]; rfl) ((lensFit_iff 1 u).2 hindex))
    · unfold clRepeat
      have hfield : fieldAt u.bitb.toNat e.bits.toNat 2 < 4 := Nat.mod_lt _ (by decide)
      split
      · exact .inr (.block (by decide))
      · next h =>
        refine .inl (acts_putLens hmode hbmode he hclass (by omega) (by rw [hextra, if_pos h16]) ?_)
        rw [Bool.or_eq_true, Bool.not_eq_true'] at h
        exact Bool.eq_true_of_not_eq_false fun hf => h (.inr hf)
    · unfold clZeros
      have hfield : fieldAt u.bitb.toNat e.bits.toNat 3 < 8 := Nat.mod_lt _ (by decide)
      split
      · next h => exact .inl (acts_putLens hmode hbmode he hclass (by omega) (by rw [hextra, if_neg h16, if_pos h17]) h)
      · exact .inr (.block (by decide))
    · unfold clZeros
      have hfield : fieldAt u.bitb.toNat e.bits.toNat 7 < 128 := Nat.mod_lt _ (by decide)
      split
      · next h =>
        exact .inl (acts_putLens hmode hbmode he hclass (by omega) (by rw [hextra, if_neg h16, if_neg h17, if_pos h18]) h)
      · exact .inr (.block (by decide))
    · exact .inr (.block (by decide))
  · rw [exec_decodeEntry_cl_of_not_lit hk hclass]
    exact (Raises.block (id := 15) (by decide)).does

theorem does_buildCl (hmode : u.mode = .blocks) (hbmode : u.bmode = .btree) : Does 0 u (.next (microBuildCl u)) := by
  unfold microBuildCl
  split
  · next tab hbuild => exact (Acts.buildCl hmode hbmode hbuild).does
  · exact (Raises.block (by decide)).does

theorem does_buildCodes (hmode : u.mode = .blocks) (hbmode : u.bmode = .dtree) : Does 0 u (.next (microBuildCodes u)) := by
  unfold microBuildCodes
  split
  · next lt hlt =>
    unfold buildDistance
    split
    · exact (Raises.block (by decide)).does
    · exact (Raises.block (by decide)).does
    · next dt hdt => exact (Acts.buildCodes hmode hbmode hlt (.inl hdt)).does
    · next dt hdt => exact (Acts.buildCodes hmode hbmode hlt (.inr hdt)).does
  · exact (Raises.block (by decide)).does

end Elements

/-! ### From an outcome to a step -/

section Step
variable {s t : State}

theorem EngineStep.of_does {n : Nat} {u : State} {o : Host.Outcome State Fault Refusal} (hfetch : Fetch s n u) (h : Does n u o)
    (ho : o = .next t) : EngineStep s t := by
  obtain hacts | hraises := h t ho
  · exact .commits hfetch hacts
  · exact .raises hfetch.reached hraises

theorem engineStep_of_field {slot : Slot} {n : Nat} (hbusy : s.busy = true) (hselect : select s = .element slot)
    (hfetch : fetch slot s = fetchBits n s) (hn : n ≤ 25 ∨ n ≤ 32 ∧ s.mode = .blocks ∧ s.bmode = .lens)
    (h : ∀ u, Pulled s u → Does n u (exec (decode slot Entry.invalid u.bitb) u)) (hstep : step s = .next t) : EngineStep s t := by
  rw [step_of_field hbusy hselect hfetch] at hstep
  obtain ⟨_, u, hneed, hexec⟩ | ⟨r, u, hneed, rfl⟩ := settle_next hstep
  · exact .of_does (.field (.inl rfl) hneed hn) (h u (pulls_ok_pulled hneed)) hexec
  · exact .stops ⟨s, n, .inl rfl, needBits_stop_pullsBelow (by omega) hneed, hn⟩

theorem room_ok_eq {a : Unit} (h : room s = .ok a t) : t = s ∨ t = flush s := by
  by_cases hfull : s.pend.toNat = wsize s
  · rw [room_of_full hfull] at h
    split at h
    · cases h
    · cases h
      exact .inr rfl
  · rw [room_of_free hfull] at h
    cases h
    exact .inl rfl

/-- Room is made before the micro-step acts (R253). -/
theorem engineStep_of_room {k : Unit → State → Host.Outcome State Fault Refusal}
    (h : ∀ u, Delivered s u → u.pend.toNat ≠ wsize u → Does 0 u (k () u)) (hnext : settle (room s) k = .next t) : EngineStep s t := by
  obtain ⟨_, u, hroom, hk⟩ | ⟨r, u, hroom, rfl⟩ := settle_next hnext
  · obtain ⟨hdelivered, hfree⟩ := room_ok hroom
    refine .of_does ?_ (h u hdelivered hfree) hk
    obtain rfl | rfl := room_ok_eq hroom
    · exact fetch_none _
    · exact fetch_none_flush _
  · obtain ⟨-, rfl⟩ := room_stop hroom
    exact .stops (reached_flush s)

theorem engineStep_of_drain {k : State → State} (h : ∀ u, Delivered s u → Acts 0 u (k u)) (hnext : drain k s = .next t) :
    EngineStep s t := by
  unfold drain at hnext
  dsimp only at hnext
  split at hnext
  · cases hnext
    exact .stops (reached_flush s)
  · exact .of_does (fetch_none_flush s) (h _ (flush_delivered s)).does hnext

variable (hbusy : s.busy = true) (hstep : step s = .next t)
include hbusy hstep

theorem engineStep_of_micro {m : Micro} (hselect : select s = .micro m) (h : Does 0 s (runMicro m s)) : EngineStep s t := by
  rw [step_of_micro hbusy hselect] at hstep
  exact .of_does (fetch_none s) h hstep

theorem engineStep_of_terminal {m : Micro} {r : Stop} (hselect : select s = .micro m) (h : runMicro m s = .next (finish r s)) :
    EngineStep s t := by
  rw [step_of_micro hbusy hselect, h] at hstep
  cases hstep
  exact .stops (.refl s)

/-- The symbol engine's micro-steps (R220). -/
theorem engineStep_of_codes (hmode : s.mode = .blocks) (hbmode : s.bmode = .codes) : EngineStep s t := by
  have hselect : select s = selectCodes s := select_of_codes hmode hbmode
  unfold selectCodes at hselect
  cases hcmode : s.cmode <;> simp only [hcmode] at hselect
  case start => exact engineStep_of_micro hbusy hstep hselect (Acts.start hmode hbmode hcmode).does
  case len =>
    rw [step_of_len hbusy hmode hbmode hcmode] at hstep
    obtain ⟨e, u, hlookup, hexec⟩ | ⟨r, u, hlookup, rfl⟩ := settle_next hstep
    · refine .of_does (.len ⟨hbmode, hcmode⟩ hlookup) ?_ hexec
      have hpulled := lookupLoop_pulled hlookup
      refine does_len (hpulled.mode_eq.trans hmode) (hpulled.bmode_eq.trans hbmode) (hpulled.cmode_eq.trans hcmode) ?_
      rw [(lookupLoop_ok hlookup).1, hpulled]
    · exact .stops (reached_of_pulls (lookup_stop_pullsBelow hlookup) (by decide))
  case lenext =>
    refine engineStep_of_field (n := s.ext.toNat) hbusy hselect rfl (.inl (by omega)) (fun u hu => ?_) hstep
    have hext : u.ext = s.ext := by rw [hu]
    rw [← hext]
    exact does_lenExtra (hu.mode_eq.trans hmode) (hu.bmode_eq.trans hbmode) (hu.cmode_eq.trans hcmode) _
  case dist =>
    rw [step_of_dist hbusy hmode hbmode hcmode] at hstep
    obtain ⟨e, u, hlookup, hexec⟩ | ⟨r, u, hlookup, rfl⟩ := settle_next hstep
    · refine .of_does (.dist ⟨hbmode, hcmode⟩ hlookup) ?_ hexec
      have hpulled := lookupLoop_pulled hlookup
      refine does_dist (hpulled.mode_eq.trans hmode) (hpulled.bmode_eq.trans hbmode) (hpulled.cmode_eq.trans hcmode) ?_
      rw [(lookupLoop_ok hlookup).1, hpulled]
    · exact .stops (reached_of_pulls (lookup_stop_pullsBelow hlookup) (by decide))
  case distext =>
    refine engineStep_of_field (n := s.ext.toNat) hbusy hselect rfl (.inl (by omega)) (fun u hu => ?_) hstep
    have hext : u.ext = s.ext := by rw [hu]
    rw [← hext]
    exact does_distExtra (hu.mode_eq.trans hmode) (hu.bmode_eq.trans hbmode) (hu.cmode_eq.trans hcmode) _
  case copy =>
    rw [step_of_micro hbusy hselect, runMicro, microCopy] at hstep
    split at hstep
    · cases hstep
      exact .raises (.refl s) (.codes (by decide))
    · split at hstep
      · cases hstep
        exact .commits (fetch_none s) (.copyDone hmode hbmode hcmode)
      · next hlen =>
        refine engineStep_of_room (fun u hu hfree => ?_) hstep
        exact (Acts.copyByte (b := winRead u.distr.toNat u) (by rw [hu]; exact hmode) (by rw [hu]; exact hbmode)
          (by rw [hu]; exact hcmode) (by rw [hu]; exact hlen) hfree).does
  case lit =>
    rw [step_of_micro hbusy hselect, runMicro, microLit] at hstep
    refine engineStep_of_room (fun u hu hfree => ?_) hstep
    exact (Acts.litWrite (by rw [hu]; exact hmode) (by rw [hu]; exact hbmode) (by rw [hu]; exact hcmode) hfree).does
  case wash =>
    rw [step_of_micro hbusy hselect, runMicro, microWash] at hstep
    exact engineStep_of_drain (fun u hu => .wash (by rw [hu]; exact hmode) (by rw [hu]; exact hbmode) (by rw [hu]; exact hcmode)) hstep
  case blockEnd => exact engineStep_of_micro hbusy hstep hselect (Acts.blockEnd hmode hbmode hcmode).does
  case badcode =>
    rw [step_of_micro hbusy hselect] at hstep
    cases hstep

/-- The block parser's micro-steps (R190). -/
theorem engineStep_of_blocks (hmode : s.mode = .blocks) : EngineStep s t := by
  have hselect : select s = selectBlock s := select_of_blocks hmode
  unfold selectBlock at hselect
  cases hbmode : s.bmode <;> simp only [hbmode] at hselect
  case type =>
    exact engineStep_of_field (n := 3) hbusy hselect rfl (.inl (by decide))
      (fun u hu => does_header (hu.mode_eq.trans hmode) (hu.bmode_eq.trans hbmode) _) hstep
  case lens =>
    exact engineStep_of_field (n := 32) hbusy hselect rfl (.inr ⟨le_rfl, hmode, hbmode⟩)
      (fun u hu => does_stlen (hu.mode_eq.trans hmode) (hu.bmode_eq.trans hbmode) _ _) hstep
  case stored =>
    rw [step_of_element hbusy hselect, fetch, settle_bind] at hstep
    obtain ⟨_, v, hroom, hrest⟩ | ⟨r, v, hroom, rfl⟩ := settle_next hstep
    · obtain ⟨hdelivered, hfree⟩ := room_ok hroom
      have hv := room_ok_eq hroom
      rw [settle_fetchBits] at hrest
      obtain ⟨_, u, hneed, hexec⟩ | ⟨r, u, hneed, rfl⟩ := settle_next hrest
      · have hpulled := pulls_ok_pulled hneed
        refine .of_does (.field hv hneed (.inl (by decide))) ?_ hexec
        have hfree' : u.pend.toNat ≠ wsize u := by
          rw [hpulled]
          exact hfree
        exact does_raw (hpulled.mode_eq.trans (by rw [hdelivered]; exact hmode))
          (hpulled.bmode_eq.trans (by rw [hdelivered]; exact hbmode)) hfree' _
      · exact .stops ⟨v, 8, hv, needBits_stop_pullsBelow (by decide) hneed, .inl (by decide)⟩
    · obtain ⟨-, rfl⟩ := room_stop hroom
      exact .stops (reached_flush s)
  case table =>
    exact engineStep_of_field (n := 14) hbusy hselect rfl (.inl (by decide))
      (fun u hu => does_counts (hu.mode_eq.trans hmode) (hu.bmode_eq.trans hbmode) _ _ _) hstep
  case btree =>
    split at hselect
    · next hindex =>
      refine engineStep_of_field (n := 3) hbusy hselect rfl (.inl (by decide)) (fun u hu => ?_) hstep
      exact does_cll (hu.mode_eq.trans hmode) (hu.bmode_eq.trans hbmode) (by rw [hu]; exact hindex) _
    · exact engineStep_of_micro hbusy hstep hselect (does_buildCl hmode hbmode)
  case dtree =>
    split at hselect
    · next hindex =>
      rw [step_of_dtree hbusy hmode hbmode hindex] at hstep
      obtain ⟨e, u, hfetch, hexec⟩ | ⟨r, u, hfetch, rfl⟩ := settle_next hstep
      · have hpulled := fetchCl_pulled hfetch
        obtain ⟨i, he⟩ := fetchCl_entry hfetch
        exact .of_does (.cl hfetch) (does_cl (i := i) (hpulled.mode_eq.trans hmode) (hpulled.bmode_eq.trans hbmode)
          (by rw [hpulled]; exact hindex) (by rw [hpulled]; exact he)) hexec
      · exact .stops (reached_of_pulls (fetchCl_stop_pullsBelow hfetch) (by decide))
    · exact engineStep_of_micro hbusy hstep hselect (does_buildCodes hmode hbmode)
  case codes => exact engineStep_of_codes hbusy hstep hmode hbmode
  case dry =>
    rw [step_of_micro hbusy hselect, runMicro, microDry] at hstep
    exact engineStep_of_drain (fun u hu => .dry (by rw [hu]; exact hmode) (by rw [hu]; exact hbmode)) hstep
  case bdone =>
    split at hselect
    · exact engineStep_of_micro hbusy hstep hselect (Acts.bdoneRaw hmode hbmode).does
    · rw [step_of_element hbusy hselect, fetch, settle_ok, decode] at hstep
      exact .of_does (fetch_none s) (does_align hmode hbmode _ _) hstep
  case bbad =>
    rw [step_of_micro hbusy hselect] at hstep
    cases hstep

/-- A step of the running engine commits a micro-step, stops, or raises a fatal error (R9, R290). -/
theorem engineStep_of_step : EngineStep s t := by
  have hbyte {slot : Slot} (hselect : select s = .element slot) (hfetch : fetch slot s = fetchBits 8 s)
      (h : ∀ u, Pulled s u → Does 8 u (exec (decode slot Entry.invalid u.bitb) u)) : EngineStep s t :=
    engineStep_of_field hbusy hselect hfetch (.inl (by decide)) h hstep
  have hselect : select s = select s := rfl
  conv_rhs at hselect => unfold select
  cases hmode : s.mode <;> simp only [hmode] at hselect
  case method => exact hbyte hselect rfl fun u hu => does_cmf (hu.mode_eq.trans hmode) _
  case flag => exact hbyte hselect rfl fun u hu => does_flg (hu.mode_eq.trans hmode) _
  case dict4 | dict3 | dict2 | dict1 =>
    refine hbyte hselect rfl fun u hu => does_dictid ?_ _ _
    rw [hu.mode_eq, hmode]
    rfl
  case dict0 | done | bad => exact engineStep_of_terminal hbusy hstep hselect rfl
  case blocks => exact engineStep_of_blocks hbusy hstep hmode
  case check4 | check3 | check2 | check1 =>
    refine hbyte hselect rfl fun u hu => does_adler32 ?_ _ _
    rw [hu.mode_eq, hmode]
    decide

end Step

end Sys2Proof.Machine
end


section
/-! SUPPORT. The accounts of a running engine: what it takes from the input, what it gives to the output, and what it never writes
(R23, R26 to R34, R67, R84). -/

namespace Sys2Proof.Machine

/-- What the engine never writes (R23, R33, R84). -/
structure HostKept (s t : State) : Prop where
  memIn : t.memIn = s.memIn
  memDict : t.memDict = s.memDict
  arg : t.arg = s.arg
  dictPtr : t.dictPtr = s.dictPtr
  dictLen : t.dictLen = s.dictLen
  host : t.host = s.host
  loop : t.loop = s.loop
  hostData : t.hostData = s.hostData
  freeCount : t.freeCount = s.freeCount

/-- The configuration, which only INIT writes (R34, R36, R37). -/
structure ConfigKept (s t : State) : Prop where
  nowrap : t.nowrap = s.nowrap
  wbitsCfg : t.wbitsCfg = s.wbitsCfg
  inBound : t.inBound = s.inBound
  outBound : t.outBound = s.outBound

theorem HostKept.trans {s t u : State} (h : HostKept s t) (g : HostKept t u) : HostKept s u where
  memIn := g.memIn.trans h.memIn
  memDict := g.memDict.trans h.memDict
  arg := g.arg.trans h.arg
  dictPtr := g.dictPtr.trans h.dictPtr
  dictLen := g.dictLen.trans h.dictLen
  host := g.host.trans h.host
  loop := g.loop.trans h.loop
  hostData := g.hostData.trans h.hostData
  freeCount := g.freeCount.trans h.freeCount

theorem ConfigKept.trans {s t u : State} (h : ConfigKept s t) (g : ConfigKept t u) : ConfigKept s u where
  nowrap := g.nowrap.trans h.nowrap
  wbitsCfg := g.wbitsCfg.trans h.wbitsCfg
  inBound := g.inBound.trans h.inBound
  outBound := g.outBound.trans h.outBound

/-- `t` is `s` after `k` bytes of the input and `j` bytes of the output: the pointers, the counts left and the totals have moved
together, and only the addresses that the output cursor passed are written. -/
structure Account (k j : Nat) (s t : State) : Prop where
  host : HostKept s t
  config : ConfigKept s t
  own : t.own = s.own
  nextIn : t.nextIn = s.nextIn + BitVec.ofNat 32 k
  availIn : t.availIn.toNat + k = s.availIn.toNat
  totalIn : t.totalIn = s.totalIn + BitVec.ofNat 64 k
  nextOut : t.nextOut = s.nextOut + BitVec.ofNat 32 j
  availOut : t.availOut.toNat + j = s.availOut.toNat
  totalOut : t.totalOut = s.totalOut + BitVec.ofNat 64 j
  output : ∀ a, (∀ i, i < j → a ≠ (s.nextOut + BitVec.ofNat 32 i).toNat) → t.memOut.read a = s.memOut.read a

theorem Account.trans {k l i j : Nat} {s t u : State} (h : Account k i s t) (g : Account l j t u) : Account (k + l) (i + j) s u where
  host := h.host.trans g.host
  config := h.config.trans g.config
  own := g.own.trans h.own
  nextIn := by rw [g.nextIn, h.nextIn, BitVec.add_assoc, BitVec.ofNat_add]
  availIn := by have := h.availIn; have := g.availIn; omega
  totalIn := by rw [g.totalIn, h.totalIn, BitVec.add_assoc, BitVec.ofNat_add]
  nextOut := by rw [g.nextOut, h.nextOut, BitVec.add_assoc, BitVec.ofNat_add]
  availOut := by have := h.availOut; have := g.availOut; omega
  totalOut := by rw [g.totalOut, h.totalOut, BitVec.add_assoc, BitVec.ofNat_add]
  output a ha := by
    rw [g.output a, h.output a fun n hn => ha n (by omega)]
    intro n hn
    rw [h.nextOut, BitVec.add_assoc, ← BitVec.ofNat_add]
    exact ha (i + n) (by omega)

/-- The engine's own registers, which a micro-step works on: all but the accounts and what the engine never writes. -/
def Works (s t : State) : Prop :=
  t = { s with
    busy := t.busy, code := t.code, msg := t.msg, adler := t.adler, mode := t.mode, wbits := t.wbits, methodr := t.methodr
    needw := t.needw, wasw := t.wasw, marker := t.marker, bitb := t.bitb, bitk := t.bitk, bmode := t.bmode, last := t.last
    left := t.left, nlen := t.nlen, ndist := t.ndist, nclen := t.nclen, index := t.index, cllens := t.cllens, lens := t.lens
    lt := t.lt, dt := t.dt, ct := t.ct, lbits := t.lbits, dbits := t.dbits, cmode := t.cmode, tptr := t.tptr, tneed := t.tneed
    litv := t.litv, lenr := t.lenr, ext := t.ext, distr := t.distr, win := t.win, wr := t.wr, rd := t.rd, pend := t.pend
    whave := t.whave }

theorem Works.account {s t : State} (h : Works s t) : Account 0 0 s t := by
  rw [h]
  exact ⟨⟨rfl, rfl, rfl, rfl, rfl, rfl, rfl, rfl, rfl⟩, ⟨rfl, rfl, rfl, rfl⟩, rfl, (BitVec.add_zero _).symm, rfl,
    (BitVec.add_zero _).symm, (BitVec.add_zero _).symm, rfl, (BitVec.add_zero _).symm, fun _ _ => rfl⟩

theorem account_advanceIn {s : State} (h : s.availIn ≠ 0) : Account 1 0 s (advanceIn s) where
  host := ⟨rfl, rfl, rfl, rfl, rfl, rfl, rfl, rfl, rfl⟩
  config := ⟨rfl, rfl, rfl, rfl⟩
  own := rfl
  nextIn := rfl
  availIn := by rw [advanceIn_availIn]; bv_omega
  totalIn := rfl
  nextOut := (BitVec.add_zero _).symm
  availOut := rfl
  totalOut := (BitVec.add_zero _).symm
  output _ _ := rfl

theorem account_pull {s t : State} {a : Unit} (h : pull s = .ok a t) : Account 1 0 s t := by
  obtain ⟨havail, b, -, rfl⟩ := pull_ok h
  exact (show Works s (accept b s) from rfl).account.trans (account_advanceIn (s := accept b s) havail)

theorem account_pulls {n : Nat} {s t : State} (h : PullsBelow n s t) : ∃ k, Account k 0 s t := by
  induction h with
  | refl s => exact ⟨0, (show Works s s from rfl).account⟩
  | pull _ hpull _ ih =>
    obtain ⟨k, hk⟩ := ih
    exact ⟨1 + k, (account_pull hpull).trans hk⟩

theorem deliverN_availOut_toNat {k : Nat} {s : State} (h : k ≤ s.availOut.toNat) :
    (deliverN k s).availOut.toNat + k = s.availOut.toNat := by
  induction k generalizing s with
  | zero => rfl
  | succ k ih =>
    have hone : (deliver s).availOut.toNat + 1 = s.availOut.toNat := by
      rw [deliver_availOut]
      bv_omega
    have hrest := ih (s := deliver s) (by omega)
    rw [deliverN]
    omega

theorem account_flush (s : State) : Account 0 (min s.pend.toNat s.availOut.toNat) s (flush s) where
  host := by rw [flush_delivered s]; exact ⟨rfl, rfl, rfl, rfl, rfl, rfl, rfl, rfl, rfl⟩
  config := by rw [flush_delivered s]; exact ⟨rfl, rfl, rfl, rfl⟩
  own := flush_own s
  nextIn := (flush_nextIn s).trans (BitVec.add_zero _).symm
  availIn := congrArg BitVec.toNat (flush_availIn s)
  totalIn := (flush_totalIn s).trans (BitVec.add_zero _).symm
  nextOut := deliverN_nextOut
  availOut := deliverN_availOut_toNat (Nat.min_le_right _ _)
  totalOut := deliverN_totalOut
  output _ ha := deliverN_memOut_other ha

theorem Reached.account {s u : State} (h : Reached s u) : ∃ k j, Account k j s u := by
  obtain ⟨v, n, rfl | rfl, hpulls, -⟩ := h
  · obtain ⟨k, hk⟩ := account_pulls hpulls
    exact ⟨k, 0, hk⟩
  · obtain ⟨k, hk⟩ := account_pulls hpulls
    exact ⟨_, _, (account_flush s).trans hk⟩

/-- A micro-step works on the engine's own registers. -/
theorem Acts.works {n : Nat} {u t : State} (h : Acts n u t) : Works u t := by
  cases h <;> rfl

theorem account_finish (r : Stop) (s : State) : Account 0 (min s.pend.toNat s.availOut.toNat) s (finish r s) :=
  (account_flush s).trans (show Works (flush s) (finish r s) from rfl).account

theorem account_raise (id : Nat) (s : State) : Account 0 (min s.pend.toNat s.availOut.toNat) s (raise id s) := by
  have h := (show Works s (saveCause id s) from rfl).account.trans (account_finish .err (saveCause id s))
  rwa [Nat.zero_add, Nat.zero_add] at h

theorem Raises.account {u t : State} (h : Raises u t) : ∃ j, Account 0 j u t := by
  cases h with
  | plain _ => exact ⟨_, account_raise _ u⟩
  | block _ => exact ⟨_, (show Works u { u with bmode := .bbad } from rfl).account.trans (account_raise _ _)⟩
  | codes _ => exact ⟨_, (show Works u { u with cmode := .badcode, bmode := .bbad } from rfl).account.trans (account_raise _ _)⟩

theorem EngineStep.account {s t : State} (h : EngineStep s t) : ∃ k j, Account k j s t := by
  cases h with
  | commits hfetch hacts =>
    obtain ⟨k, j, hreached⟩ := hfetch.reached.account
    exact ⟨_, _, hreached.trans hacts.works.account⟩
  | stops hreached =>
    obtain ⟨k, j, hreached⟩ := hreached.account
    exact ⟨_, _, hreached.trans (account_finish _ _)⟩
  | raises hreached hraises =>
    obtain ⟨k, j, hreached⟩ := hreached.account
    obtain ⟨i, hraises⟩ := hraises.account
    exact ⟨_, _, hreached.trans hraises⟩

/-- Settles O57: the accounts of the pulls and deliveries a step is made of add up. -/
theorem cursorsAndTotalsMoveTogether : Obligations.CursorsAndTotalsMoveTogether := by
  unfold Obligations.CursorsAndTotalsMoveTogether
  intro s t hinv hbusy hstep
  obtain ⟨k, j, h⟩ := (engineStep_of_step hbusy hstep).account
  have hin := h.availIn
  have hout := h.availOut
  obtain ⟨-, -, -, -, hwrap⟩ := hinv.host.running hbusy
  refine ⟨k, j, by omega, by omega, h.nextIn, by omega, h.totalIn, h.nextOut, by omega, h.totalOut, fun a ha => h.output a ?_⟩
  intro i hi
  rw [nextOut_add_toNat hwrap (by omega)]
  omega

end Sys2Proof.Machine
end


section
/-! SUPPORT. What an idle engine's step can do, said once: a command, or a move of the host (R22, R86, R281 to R300). -/

namespace Sys2Proof.Machine

/-- What the command of code `c` does to the state, from which the code has been taken (R281 to R300). -/
inductive CommandStep (c : Byte) (s : State) : State → Prop where
  | answers {st : Status} (hst : st ≠ .memError) : CommandStep c s (ret st s)
  | init {raw : Bool} {wb : Nat} (hc : c = 1) (harg : decodeInitArg s.arg = some (raw, wb)) :
      CommandStep c s (ret .ok (resetState
        { s with own := true, nowrap := raw, wbitsCfg := BitVec.ofNat 4 wb
                 availIn := 0, availOut := 0, inBound := false, outBound := false }))
  | reset (hc : c = 2) (hown : s.own = true) : CommandStep c s (ret .ok (resetState s))
  | stepAnswers {st : Status} (hc : c = 3) (hst : st ≠ .memError) : CommandStep c s (ret st { s with flushr := s.arg })
  | stepRuns (hc : c = 3) (hown : s.own = true) (hin : s.inBound = true) (hout : s.outBound = true) (hinw : inWraps s = false)
      (houtw : outWraps s = false) (hmode : s.mode ≠ .bad) :
      CommandStep c s { s with flushr := s.arg, busy := true, entryIn := s.availIn, entryOut := s.availOut }
  | setDict {bytes : List Byte} (hc : c = 4) (hmode : s.mode = .dict0) :
      CommandStep c s (ret .ok { loadDict bytes s with mode := .blocks })
  | syncStarved (hc : c = 5) : CommandStep c s (ret .bufError (abandon s))
  | syncLost {n m : Nat} (hc : c = 5) (hm : heldMarks s ≤ 3 → m ≤ 3) :
      CommandStep c s (ret .dataError { advanceIn^[n] (abandon s) with marker := BitVec.ofNat 3 m })
  | syncFound {n : Nat} (hc : c = 5) (hown : s.own = true) : CommandStep c s (ret .ok (returnFromBad (advanceIn^[n] (abandon s))))
  | endCmd (hc : c = 6) : CommandStep c s (ret .ok { s with own := false })

section Commands
variable {c : Byte} {s t : State}

/-- Every command but INIT begins with the ownership check (R282). -/
theorem commandStep_of_requireOwn {k : State → Host.Outcome State Fault Refusal} (h : requireOwn s k = .next t)
    (hk : s.own = true → k s = .next t → CommandStep c s t) : CommandStep c s t := by
  unfold requireOwn at h
  split at h
  · exact hk ‹_› h
  · cases h
    exact .answers (by decide)

theorem commandStep_init (hc : c = 1) (h : execInit s = .next t) : CommandStep c s t := by
  unfold execInit at h
  split at h
  · cases h
    exact .answers (by decide)
  · next harg =>
    cases h
    exact .init hc harg

theorem commandStep_stepCmd (hc : c = 3) (h : execStepCmd s = .next t) : CommandStep c s t := by
  refine commandStep_of_requireOwn h fun hown hk => ?_
  split at hk
  · cases hk
    exact .answers (by decide)
  next hbound =>
  split at hk
  · cases hk
    exact .answers (by decide)
  split at hk
  · cases hk
    exact .answers (by decide)
  next hwraps =>
  simp only [Bool.or_eq_true, Bool.not_eq_true', not_or, Bool.not_eq_false] at hbound
  simp only [Bool.or_eq_true, not_or, Bool.not_eq_true] at hwraps
  split at hk
  · cases hk
    exact .stepAnswers hc (by decide)
  · cases hk
    exact .stepAnswers hc (by decide)
  · cases hk
    exact .stepAnswers hc (by decide)
  · next hbad _ _ =>
    cases hk
    exact .stepRuns hc hown hbound.1 hbound.2 hwraps.1 hwraps.2 hbad

theorem commandStep_setDict (hc : c = 4) (h : execSetDict s = .next t) : CommandStep c s t := by
  refine commandStep_of_requireOwn h fun _ hk => ?_
  dsimp only at hk
  split at hk
  · cases hk
    exact .answers (by decide)
  next hmode =>
  split at hk
  · cases hk
    exact .answers (by decide)
  split at hk
  · cases hk
  split at hk
  · cases hk
    exact .answers (by decide)
  · cases hk
    exact .setDict hc (not_not.1 hmode)

theorem syncNext_le {m : Nat} (hm : m ≤ 3) (b : Byte) : syncNext m b ≤ 4 := by
  unfold syncNext
  split_ifs <;> omega

/-- The scan answers after some bytes, with a count of at most 4 (R40, R300). -/
theorem syncScan_ok {k m n : Nat} {s u : State} (h : syncScan k m s = .ok n u) :
    (∃ i, u = advanceIn^[i] s) ∧ (m ≤ 4 → n ≤ 4) := by
  induction k generalizing m s with
  | zero =>
    cases h
    exact ⟨⟨0, rfl⟩, id⟩
  | succ k ih =>
    rw [syncScan] at h
    split at h
    · cases h
      exact ⟨⟨0, rfl⟩, id⟩
    · next hm =>
      split at h
      · cases h
      · next b _ =>
        obtain ⟨⟨i, hi⟩, hn⟩ := ih h
        exact ⟨⟨i + 1, hi⟩, fun _ => hn (syncNext_le (by omega) b)⟩

theorem syncScan_ne_stop {k m : Nat} {s u : State} {r : Stop} : syncScan k m s ≠ .stop r u := by
  induction k generalizing m s with
  | zero => exact nofun
  | succ k ih =>
    rw [syncScan]
    split
    · exact nofun
    · split
      · exact nofun
      · exact ih

theorem commandStep_sync (hc : c = 5) (h : execSync s = .next t) : CommandStep c s t := by
  refine commandStep_of_requireOwn h fun hown hk => ?_
  dsimp only at hk
  split at hk
  · cases hk
    exact .answers (by decide)
  split at hk
  · cases hk
    exact .syncStarved hc
  split at hk
  · cases hk
  · next hstop => exact absurd hstop syncScan_ne_stop
  · next m u hscan =>
    rw [abandon_marker_toNat] at hscan
    obtain ⟨⟨n, rfl⟩, hle⟩ := syncScan_ok hscan
    split at hk
    · next hm =>
      cases hk
      exact .syncLost hc fun hheld => by have := hle (by omega); omega
    · cases hk
      exact .syncFound hc hown

/-- The code in `CMD` of an idle engine starts its command (R22, R281). -/
theorem commandStep_of_step (hbusy : s.busy = false) (hcmd : s.cmd = some c) (hstep : step s = .next t) :
    CommandStep c { s with cmd := none } t := by
  have hcode {n : Nat} (h : c.toNat = n) (hn : n < 2 ^ 8) : c = BitVec.ofNat 8 n :=
    BitVec.eq_of_toNat_eq (by rw [h, BitVec.toNat_ofNat, Nat.mod_eq_of_lt hn])
  rw [step_of_command hbusy hcmd, decodeCommand] at hstep
  split at hstep
  · next h => exact commandStep_init (hcode h (by decide)) hstep
  · next h =>
    refine commandStep_of_requireOwn (k := fun s => .next (ret .ok (resetState s))) hstep fun hown hk => ?_
    cases hk
    exact .reset (hcode h (by decide)) hown
  · next h => exact commandStep_stepCmd (hcode h (by decide)) hstep
  · next h => exact commandStep_setDict (hcode h (by decide)) hstep
  · next h => exact commandStep_sync (hcode h (by decide)) hstep
  · next h =>
    refine commandStep_of_requireOwn (k := fun s => .next (ret .ok { s with own := false })) hstep fun _ hk => ?_
    cases hk
    exact .endCmd (hcode h (by decide))
  · cases hstep
    exact .answers (by decide)

/-- A command leaves the host's side alone (R23, R33, R84). -/
theorem CommandStep.hostKept (h : CommandStep c s t) : HostKept s t := by
  cases h with
  | syncStarved _ =>
    rw [abandon_eq]
    exact ⟨rfl, rfl, rfl, rfl, rfl, rfl, rfl, rfl, rfl⟩
  | syncLost _ _ | syncFound _ _ =>
    rw [scanned_eq]
    exact ⟨rfl, rfl, rfl, rfl, rfl, rfl, rfl, rfl, rfl⟩
  | _ => exact ⟨rfl, rfl, rfl, rfl, rfl, rfl, rfl, rfl, rfl⟩

/-- Only INIT writes the configuration (R36, R37). -/
theorem CommandStep.configKept (h : CommandStep c s t) (hc : c ≠ 1) : ConfigKept s t := by
  cases h with
  | init hinit _ => exact absurd hinit hc
  | syncStarved _ =>
    rw [abandon_eq]
    exact ⟨rfl, rfl, rfl, rfl⟩
  | syncLost _ _ | syncFound _ _ =>
    rw [scanned_eq]
    exact ⟨rfl, rfl, rfl, rfl⟩
  | _ => exact ⟨rfl, rfl, rfl, rfl⟩

/-- Only INIT and END write the ownership (R34). -/
theorem CommandStep.own_cases (h : CommandStep c s t) : t.own = s.own ∨ (c = 1 ∧ t.own = true) ∨ (c = 6 ∧ t.own = false) := by
  cases h with
  | init hc _ => exact .inr (.inl ⟨hc, rfl⟩)
  | endCmd hc => exact .inr (.inr ⟨hc, rfl⟩)
  | syncStarved _ =>
    rw [abandon_eq]
    exact .inl rfl
  | syncLost _ _ | syncFound _ _ =>
    rw [scanned_eq]
    exact .inl rfl
  | _ => exact .inl rfl

/-- A bad stream stays bad, but for INIT, RESET and a SYNC that finds the marker (R299, R355). -/
theorem CommandStep.bad (h : CommandStep c s t) (hmode : s.mode = .bad) : t.mode = .bad ∨ c = 1 ∨ c = 2 ∨ c = 5 := by
  cases h with
  | init hc _ => exact .inr (.inl hc)
  | reset hc _ => exact .inr (.inr (.inl hc))
  | setDict _ hdict => exact absurd (hmode.symm.trans hdict) (by decide)
  | syncStarved hc | syncLost hc _ | syncFound hc _ => exact .inr (.inr (.inr hc))
  | _ => exact .inl hmode

end Commands

/-! ### The host's turn -/

/-- What the host's turn does: it moves, it lays down moves, or it waits (R8, R376). -/
inductive HostStep (s : State) : State → Prop where
  | moves {m : HostMove} {r : List HostMove} (hhost : s.host = m :: r) : HostStep s (hostMove m { s with host := r })
  | lays (ms : List HostMove) (l : HostLoop) : HostStep s (say ms l s)
  | waits : HostStep s s

theorem hostStep_of_step {s t : State} (hbusy : s.busy = false) (hcmd : s.cmd = none) (hstep : step s = .next t) : HostStep s t := by
  rw [step_of_idle hbusy hcmd] at hstep
  cases hstep
  unfold hostTurn
  split
  · next hhost => exact .moves hhost
  · split
    · next l _ =>
      obtain ⟨-, hover⟩ | ⟨ms, k, hsay⟩ := loopTurn_cases l s
      · rw [hover]
        exact .waits
      · rw [hsay]
        exact .lays ms k
    · exact .waits

/-- What a host's move writes beside its own side: a register the host may write, a byte of its memories, or all, by the reset
input (R21, R370). -/
theorem hostMove_mode_own {m : HostMove} (s : State) (hm : m ≠ .hardReset) :
    (hostMove m s).mode = s.mode ∧ (hostMove m s).own = s.own := by
  cases m with
  | writeReg reg v =>
    show (hostWrite reg v s).mode = s.mode ∧ (hostWrite reg v s).own = s.own
    unfold hostWrite
    split <;> exact ⟨rfl, rfl⟩
  | readReg reg =>
    show (hostRead reg s).mode = s.mode ∧ (hostRead reg s).own = s.own
    unfold hostRead
    split <;> exact ⟨rfl, rfl⟩
  | poke space a b => cases space <;> exact ⟨rfl, rfl⟩
  | hardReset => exact absurd rfl hm

theorem HostStep.mode_own {s t : State} (h : HostStep s t) :
    (t.mode = s.mode ∧ t.own = s.own) ∨ (s.host.head? = some .hardReset ∧ t.own = false) := by
  cases h with
  | @moves m r hhost =>
    by_cases hm : m = .hardReset
    · subst hm
      exact .inr ⟨by rw [hhost, List.head?_cons], rfl⟩
    · exact .inl (hostMove_mode_own _ hm)
  | lays ms l => exact .inl ⟨rfl, rfl⟩
  | waits => exact .inl ⟨rfl, rfl⟩

/-! ### What is never written, and what changes only by a command -/

/-- Settles O56: the running engine's accounts leave the host's side and the configuration, and so do the commands but INIT. -/
theorem engineNeverWritesHostSide : Obligations.EngineNeverWritesHostSide := by
  unfold Obligations.EngineNeverWritesHostSide
  intro s t hengine hstep
  have hkept : HostKept s t ∧ (s.busy = true ∨ s.cmd ≠ some 1 → ConfigKept s t) := by
    cases hbusy : s.busy with
    | true =>
      obtain ⟨k, j, h⟩ := (engineStep_of_step hbusy hstep).account
      exact ⟨h.host, fun _ => h.config⟩
    | false =>
      cases hcmd : s.cmd with
      | none => exact absurd hengine (by simp [hbusy, hcmd])
      | some c =>
        have h := commandStep_of_step hbusy hcmd hstep
        have hstart : HostKept s { s with cmd := none } := ⟨rfl, rfl, rfl, rfl, rfl, rfl, rfl, rfl, rfl⟩
        have hconfig : ConfigKept s { s with cmd := none } := ⟨rfl, rfl, rfl, rfl⟩
        exact ⟨hstart.trans h.hostKept, fun hc => hconfig.trans (h.configKept (by simpa using hc))⟩
  obtain ⟨⟨hin, hdict, harg, hptr, hlen, hhost, hloop, hdata, hfree⟩, hconfig⟩ := hkept
  refine ⟨hin, hdict, harg, hptr, hlen, hhost, hloop, hdata, hfree, fun hc => ?_⟩
  obtain ⟨hnowrap, hcfg, hinb, houtb⟩ := hconfig hc
  exact ⟨hnowrap, hcfg, hinb, houtb⟩

/-- Settles O58: a running engine in `BAD` stops at once; of the commands three leave `BAD`, of the host's moves the reset input. -/
theorem badModeIsLeftOnlyByResync : Obligations.BadModeIsLeftOnlyByResync := by
  unfold Obligations.BadModeIsLeftOnlyByResync
  refine ⟨fun s t hmode hstep hleft => ?_, fun s hmode hbusy hcmd hown hin hout harg hinw houtw => ?_⟩
  · cases hbusy : s.busy with
    | true =>
      have hselect : select s = .micro .bad := by rw [select, hmode]
      rw [step_of_micro hbusy hselect] at hstep
      cases hstep
      exact absurd ((finish_mode .err s).trans hmode) hleft
    | false =>
      refine ⟨rfl, ?_⟩
      cases hcmd : s.cmd with
      | some c =>
        obtain hbad | hc | hc | hc := (commandStep_of_step hbusy hcmd hstep).bad hmode
        · exact absurd hbad hleft
        · exact .inl (congrArg some hc)
        · exact .inr (.inl (congrArg some hc))
        · exact .inr (.inr (.inl (congrArg some hc)))
      | none =>
        obtain ⟨hkept, -⟩ | ⟨hreset, -⟩ := (hostStep_of_step hbusy hcmd hstep).mode_own
        · exact absurd (hkept.trans hmode) hleft
        · exact .inr (.inr (.inr ⟨rfl, hreset⟩))
  · obtain ⟨-, hpasses⟩ := stepChecksAtEntry { s with cmd := none } hown
    have hfits : ¬(2 ^ 32 < s.nextIn.toNat + s.availIn.toNat ∨ 2 ^ 32 < s.nextOut.toNat + s.availOut.toNat) := by
      rw [inWraps_eq_false_iff] at hinw
      rw [outWraps_eq_false_iff] at houtw
      omega
    have hlegal : ¬(s.arg ≠ 0 ∧ s.arg ≠ 2 ∧ s.arg ≠ 4) := fun ⟨h0, h2, h4⟩ => harg.elim h0 fun h => h.elim h2 h4
    obtain ⟨hbad, -⟩ := hpasses (by simp [hin, hout]) hlegal hfits
    rw [step_of_command hbusy hcmd]
    exact hbad hmode

/-- Settles O59: a running engine keeps the ownership, and so do all commands but INIT and END and all moves but the reset input. -/
theorem ownershipChangesOnlyByInitEnd : Obligations.OwnershipChangesOnlyByInitEnd := by
  unfold Obligations.OwnershipChangesOnlyByInitEnd
  intro s t hstep hchanged
  cases hbusy : s.busy with
  | true =>
    obtain ⟨k, j, h⟩ := (engineStep_of_step hbusy hstep).account
    exact absurd h.own hchanged
  | false =>
    refine ⟨rfl, ?_⟩
    cases hcmd : s.cmd with
    | some c =>
      obtain hkept | ⟨hc, hown⟩ | ⟨hc, hown⟩ := (commandStep_of_step hbusy hcmd hstep).own_cases
      · exact absurd hkept hchanged
      · exact .inl ⟨congrArg some hc, hown⟩
      · exact .inr (.inl ⟨congrArg some hc, hown⟩)
    | none =>
      obtain ⟨-, hkept⟩ | ⟨hreset, hown⟩ := (hostStep_of_step hbusy hcmd hstep).mode_own
      · exact absurd hkept hchanged
      · exact .inr (.inr ⟨rfl, hreset, hown⟩)

end Sys2Proof.Machine
end


section
/-! SUPPORT. What keeps the parts of the invariant (R61 to R65): pulls, deliveries, and the writes of a micro-step. -/

namespace Sys2Proof.Machine

/-! ### A part of the invariant speaks of some registers only -/

section Congruence
variable {s t : State}

theorem MemoryInv.congr (h : MemoryInv s) (he : (t.memIn, t.memOut, t.memDict, t.win) = (s.memIn, s.memOut, s.memDict, s.win)) :
    MemoryInv t := by
  simp only [Prod.mk.injEq] at he
  obtain ⟨hin, hout, hdict, hwin⟩ := he
  exact ⟨hin ▸ h.input, hout ▸ h.output, hdict ▸ h.dictionary, hwin ▸ h.window⟩

theorem BitInv.congr (h : BitInv s) (he : (t.bitb, t.bitk, t.mode, t.bmode) = (s.bitb, s.bitk, s.mode, s.bmode)) : BitInv t := by
  simp only [Prod.mk.injEq] at he
  obtain ⟨hbitb, hbitk, hmode, hbmode⟩ := he
  exact ⟨hbitb ▸ hbitk ▸ h.noStale, hbitk ▸ h.count, hmode ▸ hbmode ▸ hbitk ▸ h.lensAligned⟩

theorem WindowInv.congr (h : WindowInv s) (he : (t.wbits, t.wr, t.rd, t.pend, t.whave) = (s.wbits, s.wr, s.rd, s.pend, s.whave)) :
    WindowInv t := by
  simp only [Prod.mk.injEq] at he
  obtain ⟨hwbits, hwr, hrd, hpend, hwhave⟩ := he
  have hsize : wsize t = wsize s := by rw [wsize, wsize, hwbits]
  exact ⟨hpend ▸ hwhave ▸ h.pendHave, hwhave ▸ hsize ▸ h.haveSize, hwr ▸ hsize ▸ h.write, hrd ▸ hsize ▸ h.read,
    by rw [hrd, hpend, hwr, hsize]; exact h.cursors⟩

theorem SizeInv.congr (h : SizeInv s)
    (he : (t.own, t.wbits, t.wbitsCfg, t.mode, t.methodr) = (s.own, s.wbits, s.wbitsCfg, s.mode, s.methodr)) : SizeInv t := by
  simp only [Prod.mk.injEq] at he
  obtain ⟨hown, hwbits, hcfg, hmode, hmethodr⟩ := he
  exact ⟨hown ▸ hwbits ▸ hcfg ▸ h.bits, hown ▸ hmode ▸ hmethodr ▸ hcfg ▸ h.declared⟩

theorem TableInv.congr (h : TableInv s) (he : (t.lt, t.dt, t.ct) = (s.lt, s.dt, s.ct)) : TableInv t := by
  simp only [Prod.mk.injEq] at he
  obtain ⟨hlt, hdt, hct⟩ := he
  exact ⟨hlt ▸ h.lt, hdt ▸ h.dt, hct ▸ h.ct⟩

theorem ControlInv.congr (h : ControlInv s)
    (he : (t.mode, t.bmode, t.cmode, t.left, t.nlen, t.ndist, t.nclen, t.index) =
      (s.mode, s.bmode, s.cmode, s.left, s.nlen, s.ndist, s.nclen, s.index)) : ControlInv t := by
  simp only [Prod.mk.injEq] at he
  obtain ⟨hmode, hbmode, hcmode, hleft, hnlen, hndist, hnclen, hindex⟩ := he
  obtain ⟨healthy, notBegun, stored, counts, indexCl, index⟩ := h
  constructor
  all_goals simp only [hmode, hbmode, hcmode, hleft, hnlen, hndist, hnclen, hindex]
  all_goals assumption

end Congruence

/-! ### Pulls -/

/-- A byte pulled above less than 25 held bits fits the accumulator (R65, R141). -/
theorem BitInv.accept {s : State} (h : BitInv s) (hk : s.bitk.toNat ≤ 24) (b : Byte) : BitInv (Machine.accept b s) := by
  have hcount := accept_bitk_toNat b (s := s) (by omega)
  refine ⟨?_, by omega, fun hmode hbmode => ?_⟩
  · rw [hcount, accept_bitb, toNat_or_shiftLeft h.noStale hk, Nat.pow_add]
    have hbyte : b.toNat * 2 ^ s.bitk.toNat ≤ 255 * 2 ^ s.bitk.toNat := Nat.mul_le_mul_right _ (by omega)
    have hstale := h.noStale
    omega
  · have haligned := h.lensAligned hmode hbmode
    omega

theorem HostInv.advanceIn {s : State} (h : HostInv s) (havail : s.availIn ≠ 0) : HostInv (Machine.advanceIn s) where
  message := h.message
  status := h.status
  sumLow := h.sumLow
  sumHigh := h.sumHigh
  marker := h.marker
  running hbusy := by
    obtain ⟨hown, hin, hout, hinw, houtw⟩ := h.running hbusy
    refine ⟨hown, hin, hout, ?_, houtw⟩
    rw [inWraps_eq_false_iff] at hinw ⊢
    rw [advanceIn_nextIn, advanceIn_availIn]
    bv_omega

theorem HostInv.congr {s t : State} (h : HostInv s)
    (he : (t.msg, t.code, t.adler, t.marker, t.busy, t.own, t.inBound, t.outBound, t.nextIn, t.availIn, t.nextOut, t.availOut) =
      (s.msg, s.code, s.adler, s.marker, s.busy, s.own, s.inBound, s.outBound, s.nextIn, s.availIn, s.nextOut, s.availOut)) :
    HostInv t := by
  simp only [Prod.mk.injEq] at he
  obtain ⟨hmsg, hcode, hadler, hmarker, hbusy, hown, hin, hout, hnextIn, havailIn, hnextOut, havailOut⟩ := he
  obtain ⟨message, status, sumLow, sumHigh, marker, running⟩ := h
  constructor
  all_goals simp only [hmsg, hcode, hadler, hmarker, hbusy, hown, hin, hout, inWraps, outWraps, hnextIn, havailIn, hnextOut, havailOut]
  all_goals assumption

theorem Inv.pull {s t : State} {a : Unit} (h : Inv s) (hk : s.bitk.toNat ≤ 24) (hpull : Machine.pull s = .ok a t) : Inv t := by
  obtain ⟨havail, b, -, rfl⟩ := pull_ok hpull
  have hhost : HostInv (accept b s) := h.host.congr rfl
  exact ⟨h.memory.congr rfl, (h.bits.accept hk b).congr rfl, h.window.congr rfl, h.size.congr rfl, hhost.advanceIn havail,
    h.control.congr rfl, h.tables.congr rfl⟩

/-- The pulls of a fetch keep the invariant: they are made while 24 bits at most are held, since those before a stored length
are whole bytes (R65, R82). -/
theorem Inv.pulls {n : Nat} {s t : State} (h : Inv s) (hpulls : PullsBelow n s t)
    (hn : n ≤ 25 ∨ n ≤ 32 ∧ s.mode = .blocks ∧ s.bmode = .lens) : Inv t := by
  induction hpulls with
  | refl s => exact h
  | @pull s u t hbits hpull _ ih =>
    have hk : s.bitk.toNat ≤ 24 := by
      obtain hsmall | ⟨hlarge, hmode, hbmode⟩ := hn
      · omega
      · have haligned := h.bits.lensAligned hmode hbmode
        omega
    have hpulled := pull_pulled hpull
    exact ih (h.pull hk hpull) (by rwa [hpulled.mode_eq, hpulled.bmode_eq])

/-! ### Deliveries -/

/-- A delivery moves the read cursor past one pending byte (R61 to R64). -/
theorem WindowInv.deliver {s : State} (h : WindowInv s) (hpend : 1 ≤ s.pend.toNat) : WindowInv (Machine.deliver s) := by
  obtain ⟨hhave, hsize, hwr, hrd, hcursors⟩ := h
  have hone : (Machine.deliver s).pend.toNat = s.pend.toNat - 1 := by
    rw [deliver_pend]
    bv_omega
  have hread := deliver_rd_toNat s
  refine ⟨by rw [hone, deliver_whave]; omega, hsize, hwr, hread ▸ Nat.mod_lt _ (wsize_pos s), ?_⟩
  rw [hread, hone, show wsize (Machine.deliver s) = wsize s from rfl, Nat.mod_add_mod, show (Machine.deliver s).wr = s.wr from rfl,
    ← hcursors]
  congr 1
  omega

theorem HostInv.deliver {s : State} (h : HostInv s) (hout : 1 ≤ s.availOut.toNat) : HostInv (Machine.deliver s) where
  message := h.message
  status := h.status
  sumLow := (adlerStep_halves s.adler (winAt s.win s.rd.toNat)).1
  sumHigh := (adlerStep_halves s.adler (winAt s.win s.rd.toNat)).2
  marker := h.marker
  running hbusy := by
    obtain ⟨hown, hin, houtb, hinw, houtw⟩ := h.running hbusy
    refine ⟨hown, hin, houtb, hinw, ?_⟩
    rw [outWraps_eq_false_iff] at houtw ⊢
    rw [deliver_nextOut, deliver_availOut]
    bv_omega

theorem Inv.deliver {s : State} (h : Inv s) (hpend : 1 ≤ s.pend.toNat) (hout : 1 ≤ s.availOut.toNat) : Inv (Machine.deliver s) :=
  ⟨⟨h.memory.input, Memory.wf_write _ _ h.memory.output, h.memory.dictionary, h.memory.window⟩, h.bits.congr rfl,
    h.window.deliver hpend, h.size.congr rfl, h.host.deliver hout, h.control.congr rfl, h.tables.congr rfl⟩

theorem Inv.deliverN {k : Nat} {s : State} (h : Inv s) (hpend : k ≤ s.pend.toNat) (hout : k ≤ s.availOut.toNat) :
    Inv (Machine.deliverN k s) := by
  induction k generalizing s with
  | zero => exact h
  | succ k ih =>
    refine ih (h.deliver (by omega) (by omega)) ?_ ?_
    · rw [deliver_pend]
      bv_omega
    · rw [deliver_availOut]
      bv_omega

theorem Inv.flush {s : State} (h : Inv s) : Inv (Machine.flush s) := h.deliverN (Nat.min_le_left _ _) (Nat.min_le_right _ _)

theorem Inv.reached {s u : State} (h : Inv s) (hreached : Reached s u) : Inv u := by
  obtain ⟨v, n, rfl | rfl, hpulls, hn⟩ := hreached
  · exact h.pulls hpulls hn
  · exact h.flush.pulls hpulls (by rwa [flush_mode, flush_bmode])

/-! ### The end of a STEP -/

theorem codeLegal_statusCode {st : Status} (h : st ≠ .memError) : codeLegal (statusCode st) = true := by
  cases st
  case memError => exact absurd rfl h
  all_goals rfl

theorem stepStatus_ne_memError (r : Stop) (s : State) : stepStatus r s ≠ .memError := by
  unfold stepStatus
  repeat' split
  all_goals decide

/-- A STEP's status is legal, and the engine is idle then (R301). -/
theorem Inv.finish {s : State} (h : Inv s) (r : Stop) : Inv (Machine.finish r s) := by
  have hflush := h.flush
  exact ⟨hflush.memory.congr rfl, hflush.bits.congr rfl, hflush.window.congr rfl, hflush.size.congr rfl,
    ⟨hflush.host.message, codeLegal_statusCode (stepStatus_ne_memError r _), hflush.host.sumLow, hflush.host.sumHigh,
      hflush.host.marker, nofun⟩,
    hflush.control.congr rfl, hflush.tables.congr rfl⟩

/-- In `BAD` the state registers are free (R209, R238). -/
theorem controlInv_of_bad {s : State} (h : s.mode = .bad) : ControlInv s := by
  constructor
  all_goals simp [h, beforeBlocks]

/-- A fatal error keeps the invariant: its message has a text (R331, R332), and nothing is asked of the state registers in `BAD`. -/
theorem Inv.raise {u v : State} {id : Nat} (h : Inv u) (hid : id ≤ 15)
    (hv : v = { u with bmode := v.bmode, cmode := v.cmode }) : Inv (Machine.raise id v) := by
  refine Inv.finish (s := saveCause id v) ?_ .err
  have hmsg : (BitVec.ofNat 8 id).toNat = id := Nat.mod_eq_of_lt (by omega)
  rw [hv]
  exact ⟨h.memory.congr rfl, ⟨h.bits.noStale, h.bits.count, nofun⟩, h.window.congr rfl, ⟨h.size.bits, fun _ => nofun⟩,
    ⟨hmsg.trans_le hid, h.host.status, h.host.sumLow, h.host.sumHigh, Nat.zero_le 3, h.host.running⟩, controlInv_of_bad rfl,
    h.tables.congr rfl⟩

theorem Inv.raises {u t : State} (h : Inv u) (hraises : Raises u t) : Inv t := by
  cases hraises with
  | plain hid => exact h.raise hid rfl
  | block hid => exact h.raise hid rfl
  | codes hid => exact h.raise hid rfl

end Sys2Proof.Machine
end


section
/-! SUPPORT. The tables that are built have only entries that consume bits, or are invalid (R168 to R171). -/

namespace Sys2Proof.Machine

/-- An entry that names a symbol or a sub-table consumes at least one bit. -/
def EntryLive (e : Entry) : Prop := entryClass e.op = .invalid ∨ 1 ≤ e.bits.toNat

theorem tableLive_iff (t : List Entry) : tableLive t = true ↔ ∀ e ∈ t, EntryLive e := by
  rw [tableLive, List.all_eq_true]
  refine forall₂_congr fun e _ => ?_
  rw [Bool.or_eq_true, decide_eq_true_iff, decide_eq_true_iff, EntryLive]

theorem symbolEntry_bits (kind : Kind) (s b : Nat) : (symbolEntry kind s b).bits = BitVec.ofNat 4 b := by
  unfold symbolEntry
  repeat' split
  all_goals rfl

theorem toNat_ofNat_four {b : Nat} (h : b ≤ 15) : (BitVec.ofNat 4 b).toNat = b := Nat.mod_eq_of_lt (by omega)

theorem symbolEntry_bits_toNat (kind : Kind) (s : Nat) {b : Nat} (h : b ≤ 15) : (symbolEntry kind s b).bits.toNat = b := by
  rw [symbolEntry_bits, toNat_ofNat_four h]

/-- A level's entry is a symbol's with the rest of its code, or the invalid one (R169 to R171). -/
theorem levelEntry_cases (kind : Kind) (us : List Used) (skip i : Nat) :
    (∃ u ∈ us, i % 2 ^ (u.len - skip) = u.rcode / 2 ^ skip ∧ levelEntry kind us skip i = symbolEntry kind u.sym (u.len - skip)) ∨
      (∀ u ∈ us, i % 2 ^ (u.len - skip) ≠ u.rcode / 2 ^ skip) ∧ levelEntry kind us skip i = ⟨0x40, 1, 0⟩ := by
  unfold levelEntry
  split
  · next u hfind => exact .inl ⟨u, List.mem_of_find?_eq_some hfind, by simpa using List.find?_some hfind, rfl⟩
  · next hnone => exact .inr ⟨by simpa using hnone, rfl⟩

theorem entryLive_levelEntry {kind : Kind} {us : List Used} {skip : Nat} (h : ∀ u ∈ us, skip < u.len ∧ u.len ≤ 15) (i : Nat) :
    EntryLive (levelEntry kind us skip i) := by
  obtain ⟨u, hu, -, he⟩ | ⟨-, he⟩ := levelEntry_cases kind us skip i
  · obtain ⟨hskip, hlen⟩ := h u hu
    refine .inr ?_
    rw [he, symbolEntry_bits_toNat _ _ (by omega)]
    omega
  · rw [he]
    exact .inl (by decide)

theorem usedCodes_len {lens : List Nat} (h : ∀ l ∈ lens, l ≤ 15) {u : Used} (hu : u ∈ usedCodes lens) : 0 < u.len ∧ u.len ≤ 15 := by
  obtain ⟨hget, hne, -⟩ := (mem_usedCodes h u).1 hu
  exact ⟨Nat.pos_of_ne_zero hne, h _ (List.mem_of_getElem? hget)⟩

theorem mem_longer {us : List Used} {root p : Nat} {u : Used} :
    u ∈ longer us root p ↔ u ∈ us ∧ root < u.len ∧ u.rcode % 2 ^ root = p := by
  simp [longer]

theorem tableLive_tableOf {lens : List Nat} {root : Nat} (h : ∀ l ∈ lens, l ≤ 15) (hpos : 1 ≤ root) (hroot : root ≤ 15) (kind : Kind) :
    tableLive (tableOf lens root kind) = true := by
  rw [tableLive_iff]
  intro e he
  rw [tableOf, List.mem_append, List.mem_map] at he
  obtain ⟨i, -, rfl⟩ | hsub := he
  · unfold rootEntry
    split
    · refine .inr ?_
      show 1 ≤ (BitVec.ofNat 4 root).toNat
      rwa [toNat_ofNat_four hroot]
    · exact entryLive_levelEntry (fun u hu => usedCodes_len h (List.mem_filter.1 hu).1) i
  · obtain ⟨l, hl, he⟩ := List.mem_flatten.1 hsub
    obtain ⟨t, -, rfl⟩ := List.mem_map.1 hl
    obtain ⟨i, -, rfl⟩ := List.mem_map.1 he
    refine entryLive_levelEntry (fun u hu => ?_) i
    obtain ⟨hused, hlong, -⟩ := mem_longer.1 hu
    exact ⟨hlong, (usedCodes_len h hused).2⟩

theorem build_ok_eq {lens : List Nat} {root : Nat} {kind : Kind} {t : List Entry} (h : build lens root kind = .ok t) :
    t = tableOf lens root kind := by
  unfold build at h
  split_ifs at h
  cases h
  rfl

theorem build_empty_eq {lens : List Nat} {root : Nat} {kind : Kind} {t : List Entry} (h : build lens root kind = .empty t) :
    t = List.replicate (2 ^ root) Entry.invalid := by
  unfold build at h
  split_ifs at h
  cases h
  rfl

theorem tableLive_of_build {lens : List Nat} {root : Nat} {kind : Kind} {t : List Entry} (h : ∀ l ∈ lens, l ≤ 15) (hpos : 1 ≤ root)
    (hroot : root ≤ 15) (hbuild : build lens root kind = .ok t ∨ build lens root kind = .empty t) : tableLive t = true := by
  obtain hok | hempty := hbuild
  · rw [build_ok_eq hok]
    exact tableLive_tableOf h hpos hroot kind
  · rw [build_empty_eq hempty, tableLive_iff]
    intro e he
    rw [List.eq_of_mem_replicate he]
    exact .inl (by decide)

theorem clLens_le (s : State) : ∀ l ∈ clLens s, l ≤ 15 := by
  intro l hl
  obtain ⟨v, -, rfl⟩ := List.mem_map.1 hl
  omega

theorem lensSlice_le (lo n : Nat) (s : State) : ∀ l ∈ lensSlice lo n s, l ≤ 15 := by
  intro l hl
  obtain ⟨v, -, rfl⟩ := List.mem_map.1 (List.mem_of_mem_drop (List.mem_of_mem_take hl))
  omega

/-- An entry at an index is one of the table, or the invalid one beyond it (log 4). -/
theorem entryLive_entryAt {t : List Entry} (h : tableLive t = true) (i : Nat) : EntryLive (entryAt t i) := by
  rw [entryAt, List.getD_eq_getElem?_getD]
  cases hget : t[i]? with
  | none => exact .inl (by decide)
  | some e => exact (tableLive_iff t).1 h e (List.mem_of_getElem? hget)

end Sys2Proof.Machine
end

section
/-! SUPPORT. Every micro-step that is committed keeps the invariant (R64, R65, R209, R210, R238). -/

namespace Sys2Proof.Machine

/-! ### The bits consumed -/

/-- At least `n` bits have been dropped, and no more than were held (R143). -/
def Drops (n : Nat) (u t : State) : Prop :=
  ∃ m, n ≤ m ∧ m ≤ u.bitk.toNat ∧ t.bitk.toNat = u.bitk.toNat - m ∧ t.bitb.toNat = u.bitb.toNat / 2 ^ m

theorem drops_consume {m n : Nat} {u : State} (hmn : n ≤ m) (h : m ≤ u.bitk.toNat) : Drops n u (consume m u) :=
  ⟨m, hmn, h, consume_bitk_toNat h, consume_bitb_toNat m u⟩

theorem drops_alignBits {f : Bool} {u : State} (h : 3 ≤ u.bitk.toNat) : Drops 3 u (alignBits (takeHeader f u)) := by
  have hheader : (takeHeader f u).bitk.toNat = u.bitk.toNat - 3 := consume_bitk_toNat h
  have hbits := alignBits_bitk_toNat (takeHeader f u)
  refine ⟨3 + (takeHeader f u).bitk.toNat % 8, by omega, by omega, by omega, ?_⟩
  rw [Nat.pow_add, ← Nat.div_div_eq_div_mul, ← consume_bitb_toNat 3 u]
  exact consume_bitb_toNat _ (takeHeader f u)

/-- Every micro-step drops the bits of its element (R143). -/
theorem Acts.drops {n : Nat} {u t : State} (h : Acts n u t) (hn : n ≤ u.bitk.toNat) : Drops n u t := by
  have hkept {t : State} (hbits : (t.bitk, t.bitb) = (u.bitk, u.bitb)) : Drops 0 u t := by
    simp only [Prod.mk.injEq] at hbits
    obtain ⟨hbitk, hbitb⟩ := hbits
    exact ⟨0, le_rfl, Nat.zero_le _, by rw [hbitk, Nat.sub_zero], by rw [hbitb, pow_zero, Nat.div_one]⟩
  cases h with
  | blkStored _ _ => exact drops_alignBits hn
  | align _ _ => exact drops_consume (Nat.zero_le _) (Nat.mod_le _ _)
  | start _ _ _ | litWrite _ _ _ _ | copyDone _ _ _ | copyByte _ _ _ _ _ | wash _ _ _ | blockEnd _ _ _ | buildCl _ _ _
  | buildCodes _ _ _ _ | dry _ _ | bdoneRaw _ _ => exact hkept rfl
  | _ => exact drops_consume le_rfl hn

theorem afterBlock_cases (s : State) : afterBlock s = .dry ∨ afterBlock s = .type := by
  unfold afterBlock
  split
  · exact .inl rfl
  · exact .inr rfl

/-- Only the header of a stored block leads to the stored length, with whole bytes held (R82, R192). -/
theorem Acts.lensAligned {n : Nat} {u t : State} (h : Acts n u t) (hctl : ControlInv u) (hmode : t.mode = .blocks)
    (hbmode : t.bmode = .lens) : t.bitk.toNat % 8 = 0 := by
  cases h with
  | @blkStored u f _ _ =>
    have hbits := alignBits_bitk_toNat (takeHeader f u)
    show (alignBits (takeHeader f u)).bitk.toNat % 8 = 0
    omega
  | flg hflag _ =>
    have htype := hctl.notBegun (by rw [hflag]; rfl)
    exact absurd (htype.symm.trans hbmode) (by decide)
  | cmf _ _ => cases hmode
  | @dictid u k _ _ => fin_cases k <;> cases hmode
  | @adler32 u k _ _ => fin_cases k <;> cases hmode
  | align _ _ | bdoneRaw _ _ => cases hmode
  | @stlen u len _ _ =>
    have hnext : (if len = 0 then afterBlock u else .stored) = .lens := hbmode
    have := afterBlock_cases u
    split at hnext <;> simp_all
  | @raw u b _ _ _ =>
    have hnext : (if u.left - 1 = 0 then afterBlock u else .stored) = .lens := hbmode
    have := afterBlock_cases u
    split at hnext <;> simp_all
  | @blockEnd u _ _ _ =>
    have hnext : afterBlock u = .lens := hbmode
    have := afterBlock_cases u
    simp_all
  | blkFixed _ _ | blkDynamic _ _ | counts _ _ _ _ | buildCl _ _ _ | buildCodes _ _ _ _ | dry _ _ => cases hbmode
  | cll _ hstate _ | lengths _ hstate _ _ _ _ _ | literal _ hstate _ _ _ | endOfBlock _ hstate _ _ _ | length _ hstate _ _ _
  | linkLen _ hstate _ _ _ | distance _ hstate _ _ _ | linkDist _ hstate _ _ _ | lenExtra _ hstate _ | distExtra _ hstate _
  | start _ hstate _ | litWrite _ hstate _ _ | copyDone _ hstate _ | copyByte _ hstate _ _ _ | wash _ hstate _ =>
    exact absurd (hstate.symm.trans hbmode) (by decide)

theorem Acts.bitInv {n : Nat} {u t : State} (h : Acts n u t) (hinv : Inv u) (hn : n ≤ u.bitk.toNat) : BitInv t := by
  obtain ⟨m, -, hm, hbitk, hbitb⟩ := h.drops hn
  have hcount := hinv.bits.count
  refine ⟨?_, by omega, h.lensAligned hinv.control⟩
  rw [hbitk, hbitb]
  refine Nat.div_lt_of_lt_mul ?_
  rw [← pow_add, Nat.add_sub_cancel' hm]
  exact hinv.bits.noStale

/-! ### The window -/

theorem WindowInv.winWrite {s : State} (h : WindowInv s) (hroom : s.pend.toNat ≠ wsize s) (b : Byte) :
    WindowInv (Machine.winWrite b s) := by
  obtain ⟨hhave, hsize, hwr, hrd, hcursors⟩ := h
  have hpend := winWrite_pend_toNat b (s := s) (by omega)
  have hwhave : (Machine.winWrite b s).whave.toNat = min (s.whave.toNat + 1) (wsize s) := toNat_ofNat_min_wsize _ s
  have hcursor : (Machine.winWrite b s).wr.toNat = (s.wr.toNat + 1) % wsize s := toNat_ofNat_mod_wsize _ s
  have hwsize : wsize (Machine.winWrite b s) = wsize s := rfl
  refine ⟨by omega, by omega, hcursor ▸ Nat.mod_lt _ (wsize_pos s), hrd, ?_⟩
  rw [hwsize, hcursor, hpend, show (Machine.winWrite b s).rd = s.rd from rfl, ← Nat.add_assoc, ← Nat.mod_add_mod, hcursors]

theorem windowInv_of_empty {s : State} (hwr : s.wr = 0) (hrd : s.rd = 0) (hpend : s.pend = 0) (hwhave : s.whave = 0) : WindowInv s := by
  have hpos := wsize_pos s
  constructor
  all_goals simp [hwr, hrd, hpend, hwhave, hpos]

/-- What a micro-step does to the window: nothing, one byte when there is room, or it empties it (R197, R234, R235, R256). -/
theorem Acts.window_cases {n : Nat} {u t : State} (h : Acts n u t) :
    (t.win, t.wbits, t.wr, t.rd, t.pend, t.whave) = (u.win, u.wbits, u.wr, u.rd, u.pend, u.whave) ∨
    (u.pend.toNat ≠ wsize u ∧ ∃ b, (t.win, t.wbits, t.wr, t.rd, t.pend, t.whave) =
      ((winWrite b u).win, (winWrite b u).wbits, (winWrite b u).wr, (winWrite b u).rd, (winWrite b u).pend, (winWrite b u).whave)) ∨
    (t.win, t.wr, t.rd, t.pend, t.whave) = (u.win, 0, 0, 0, 0) := by
  cases h with
  | raw _ _ hroom | litWrite _ _ _ hroom | copyByte _ _ _ _ hroom => exact .inr (.inl ⟨hroom, _, rfl⟩)
  | flg _ _ => exact .inr (.inr rfl)
  | _ => exact .inl rfl

theorem Acts.windowInv {n : Nat} {u t : State} (h : Acts n u t) (hinv : Inv u) : WindowInv t ∧ winWf t.win = true := by
  have hwin := hinv.memory.window
  obtain hkept | ⟨hroom, b, hwrote⟩ | hempty := h.window_cases
  · simp only [Prod.mk.injEq] at hkept
    obtain ⟨hram, hrest⟩ := hkept
    exact ⟨hinv.window.congr (by simpa using hrest), hram ▸ hwin⟩
  · simp only [Prod.mk.injEq] at hwrote
    obtain ⟨hram, hrest⟩ := hwrote
    exact ⟨(hinv.window.winWrite hroom b).congr (by simpa using hrest),
      hram ▸ winWf_winStore b (hinv.window.write.trans_le (wsize_le u)) hwin⟩
  · simp only [Prod.mk.injEq] at hempty
    obtain ⟨hram, hwr, hrd, hpend, hwhave⟩ := hempty
    exact ⟨windowInv_of_empty hwr hrd hpend hwhave, hram ▸ hwin⟩

theorem Acts.memoryInv {n : Nat} {u t : State} (h : Acts n u t) (hinv : Inv u) : MemoryInv t := by
  have hwin := (h.windowInv hinv).2
  obtain ⟨hin, hout, hdict⟩ : t.memIn = u.memIn ∧ t.memOut = u.memOut ∧ t.memDict = u.memDict := by
    rw [h.works]
    exact ⟨rfl, rfl, rfl⟩
  exact ⟨hin ▸ hinv.memory.input, hout ▸ hinv.memory.output, hdict ▸ hinv.memory.dictionary, hwin⟩

/-! ### The window's size, the host's registers, the tables -/

theorem sizeInv_of_kept {u t : State} (h : SizeInv u) (hkept : (t.own, t.wbits, t.wbitsCfg) = (u.own, u.wbits, u.wbitsCfg))
    (hmode : t.mode ≠ .flag) : SizeInv t := by
  simp only [Prod.mk.injEq] at hkept
  obtain ⟨hown, hwbits, hcfg⟩ := hkept
  exact ⟨hown ▸ hwbits ▸ hcfg ▸ h.bits, fun _ hflag => absurd hflag hmode⟩

/-- The window bits that a flag byte puts in force are those its method byte declared, no more than INIT allowed (R291, R292). -/
theorem Acts.sizeInv {n : Nat} {u t : State} (h : Acts n u t) (hsize : SizeInv u) : SizeInv t := by
  cases h with
  | @cmf u c hmode hdeclared =>
    refine ⟨hsize.bits, fun _ _ => ?_⟩
    have hfield : fieldAt c.toNat 4 4 = c.toNat / 16 := Nat.mod_eq_of_lt (by omega)
    rwa [hfield] at hdeclared
  | @flg u m hmode hm =>
    have hfield : fieldAt u.methodr.toNat 4 4 = u.methodr.toNat / 16 := Nat.mod_eq_of_lt (by omega)
    refine ⟨fun hown => ?_, fun _ hflag => ?_⟩
    · have hdeclared := hsize.declared hown hmode
      have hwbits : (BitVec.ofNat 4 (fieldAt u.methodr.toNat 4 4 + 8)).toNat = u.methodr.toNat / 16 + 8 := by
        rw [hfield]
        exact Nat.mod_eq_of_lt (by omega)
      show 8 ≤ (BitVec.ofNat 4 (fieldAt u.methodr.toNat 4 4 + 8)).toNat ∧
        (BitVec.ofNat 4 (fieldAt u.methodr.toNat 4 4 + 8)).toNat ≤ u.wbitsCfg.toNat
      omega
    · have hnext : m = .flag := hflag
      simp [hnext] at hm
  | @dictid u k _ _ | @adler32 u k _ _ => exact sizeInv_of_kept hsize rfl (by fin_cases k <;> exact nofun)
  | align _ _ | bdoneRaw _ _ => exact sizeInv_of_kept hsize rfl nofun
  | blkStored hmode _ | blkFixed hmode _ | blkDynamic hmode _ | stlen hmode _ | raw hmode _ _ | counts hmode _ _ _ | cll hmode _ _
  | lengths hmode _ _ _ _ _ _ | literal hmode _ _ _ _ | endOfBlock hmode _ _ _ _ | length hmode _ _ _ _ | linkLen hmode _ _ _ _
  | distance hmode _ _ _ _ | linkDist hmode _ _ _ _ | lenExtra hmode _ _ | distExtra hmode _ _ | start hmode _ _
  | litWrite hmode _ _ _ | copyDone hmode _ _ | copyByte hmode _ _ _ _ | wash hmode _ _ | blockEnd hmode _ _ | buildCl hmode _ _
  | buildCodes hmode _ _ _ | dry hmode _ =>
    exact sizeInv_of_kept hsize rfl fun hflag => absurd (hmode.symm.trans hflag) (by decide)

/-- A micro-step does not touch the host's registers (R24 to R32). -/
theorem Acts.hostInv {n : Nat} {u t : State} (h : Acts n u t) (hhost : HostInv u) : HostInv t := by
  refine hhost.congr ?_
  cases h <;> rfl

theorem tableLive_fixed : tableLive fixedLt = true ∧ tableLive fixedDt = true :=
  ⟨tableLive_tableOf (fun l hl => (fixedLlLens_le l hl).trans (by decide)) (by decide) (by decide) .ll,
    tableLive_tableOf (fun l hl => (fixedDLens_le l hl).trans (by decide)) (by decide) (by decide) .d⟩

theorem Acts.tableInv {n : Nat} {u t : State} (h : Acts n u t) (htables : TableInv u) : TableInv t := by
  cases h with
  | blkFixed _ _ => exact ⟨tableLive_fixed.1, tableLive_fixed.2, htables.ct⟩
  | buildCl _ _ hbuild => exact ⟨htables.lt, htables.dt, tableLive_of_build (clLens_le u) (by decide) (by decide) (.inl hbuild)⟩
  | buildCodes _ _ hlt hdt =>
    exact ⟨tableLive_of_build (lensSlice_le _ _ u) (by decide) (by decide) (.inl hlt),
      tableLive_of_build (lensSlice_le _ _ u) (by decide) (by decide) hdt, htables.ct⟩
  | _ => exact htables.congr rfl

/-! ### The state registers -/

/-- The block parser's states that ask for nothing more (R209). -/
def PlainState (b : BMode) : Prop := b = .type ∨ b = .lens ∨ b = .table ∨ b = .codes ∨ b = .dry ∨ b = .bdone

theorem controlInv_of_plain {t : State} (hmode : beforeBlocks t.mode = true → t.bmode = .type) (hbmode : PlainState t.bmode)
    (hcmode : t.cmode ≠ .badcode) : ControlInv t := by
  refine ⟨fun _ => ⟨?_, hcmode⟩, hmode, fun _ h => ?_, fun _ h => ?_, fun _ h => ?_, fun _ h => ?_⟩
  all_goals
    obtain hb | hb | hb | hb | hb | hb := hbmode
    all_goals simp_all

/-- Outside the blocks and after them only the health of the sub-states is asked for. -/
theorem controlInv_of_after {t : State} (hbefore : beforeBlocks t.mode = false) (hblocks : t.mode ≠ .blocks)
    (hhealthy : t.bmode ≠ .bbad ∧ t.cmode ≠ .badcode) : ControlInv t :=
  ⟨fun _ => hhealthy, fun h => absurd (hbefore.symm.trans h) (by decide), fun h => absurd h hblocks, fun h => absurd h hblocks,
    fun h => absurd h hblocks, fun h => absurd h hblocks⟩

theorem plainState_afterBlock (s : State) : PlainState (afterBlock s) :=
  (afterBlock_cases s).elim (fun h => .inr (.inr (.inr (.inr (.inl h))))) .inl

/-- The stored block's counter is not 0 while there are bytes to copy (R46). -/
theorem controlInv_of_stored {t : State} (hmode : t.mode = .blocks) (hbmode : t.bmode = .stored) (hcmode : t.cmode ≠ .badcode)
    (hleft : 1 ≤ t.left.toNat) : ControlInv t := by
  refine ⟨fun _ => ⟨?_, hcmode⟩, fun h => ?_, fun _ _ => hleft, fun _ h => ?_, fun _ h => ?_, fun _ h => ?_⟩
  all_goals simp_all [beforeBlocks]

/-- The ranges of a dynamic block's counts (R47). -/
def CountsInRange (s : State) : Prop :=
  257 ≤ s.nlen.toNat ∧ s.nlen.toNat ≤ 286 ∧ 1 ≤ s.ndist.toNat ∧ s.ndist.toNat ≤ 30 ∧ 4 ≤ s.nclen.toNat ∧ s.nclen.toNat ≤ 19

theorem controlInv_of_btree {t : State} (hmode : t.mode = .blocks) (hbmode : t.bmode = .btree) (hcmode : t.cmode ≠ .badcode)
    (hcounts : CountsInRange t) (hindex : t.index.toNat ≤ t.nclen.toNat) : ControlInv t := by
  refine ⟨fun _ => ⟨?_, hcmode⟩, fun h => ?_, fun _ h => ?_, fun _ _ => hcounts, fun _ _ => hindex, fun _ h => ?_⟩
  all_goals simp_all [beforeBlocks]

theorem controlInv_of_dtree {t : State} (hmode : t.mode = .blocks) (hbmode : t.bmode = .dtree) (hcmode : t.cmode ≠ .badcode)
    (hcounts : CountsInRange t) (hindex : t.index.toNat ≤ t.nlen.toNat + t.ndist.toNat) : ControlInv t := by
  refine ⟨fun _ => ⟨?_, hcmode⟩, fun h => ?_, fun _ h => ?_, fun _ _ => hcounts, fun _ h => ?_, fun _ _ => hindex⟩
  all_goals simp_all [beforeBlocks]

theorem Acts.controlInv {n : Nat} {u t : State} (h : Acts n u t) (hctl : ControlInv u) : ControlInv t := by
  have hhealthy {m : Mode} (hmode : u.mode = m) (hm : m ≠ .bad) : u.bmode ≠ .bbad ∧ u.cmode ≠ .badcode :=
    hctl.healthy (hmode ▸ hm)
  have hblocks (hmode : u.mode = .blocks) {b : BMode} (hbefore : beforeBlocks u.mode = true) : b = .type :=
    absurd hbefore (by rw [hmode]; decide)
  have hcode (hmode : u.mode = .blocks) : u.cmode ≠ .badcode := (hhealthy hmode (by decide)).2
  cases h with
  | cmf hmode _ =>
    have htype := hctl.notBegun (by rw [hmode]; rfl)
    exact controlInv_of_plain (fun _ => htype) (.inl htype) (hhealthy hmode (by decide)).2
  | flg hmode _ =>
    have htype := hctl.notBegun (by rw [hmode]; rfl)
    exact controlInv_of_plain (fun _ => htype) (.inl htype) (hhealthy hmode (by decide)).2
  | dictid hbefore =>
    have htype := hctl.notBegun hbefore
    have hbad : u.mode ≠ .bad := fun h => by simp [h, beforeBlocks] at hbefore
    exact controlInv_of_plain (fun _ => htype) (.inl htype) (hctl.healthy hbad).2
  | @adler32 u k _ hbad =>
    refine controlInv_of_after ?_ ?_ (hctl.healthy hbad)
    · show beforeBlocks (afterCheck k) = false
      revert k
      decide
    · show afterCheck k ≠ .blocks
      revert k
      decide
  | align hmode _ | bdoneRaw hmode _ => exact controlInv_of_after rfl nofun (hhealthy hmode (by decide))
  | blkStored hmode _ => exact controlInv_of_plain (hblocks hmode) (.inr (.inl rfl)) (hcode hmode)
  | blkFixed hmode _ | buildCodes hmode _ _ _ => exact controlInv_of_plain (hblocks hmode) (.inr (.inr (.inr (.inl rfl)))) nofun
  | blkDynamic hmode _ => exact controlInv_of_plain (hblocks hmode) (.inr (.inr (.inl rfl))) (hcode hmode)
  | dry hmode _ => exact controlInv_of_plain (hblocks hmode) (.inr (.inr (.inr (.inr (.inr rfl))))) (hcode hmode)
  | blockEnd hmode _ _ => exact controlInv_of_plain (hblocks hmode) (plainState_afterBlock u) (hcode hmode)
  | @stlen _ len hmode _ =>
    by_cases hlen : len = 0
    · exact controlInv_of_plain (hblocks hmode) (by rw [if_pos hlen]; exact plainState_afterBlock u) (hcode hmode)
    · refine controlInv_of_stored hmode (if_neg hlen) (hcode hmode) ?_
      show 1 ≤ len.toNat
      bv_omega
  | raw hmode _ _ =>
    by_cases hleft : u.left - 1 = 0
    · exact controlInv_of_plain (hblocks hmode) (by rw [if_pos hleft]; exact plainState_afterBlock u) (hcode hmode)
    · refine controlInv_of_stored hmode (if_neg hleft) (hcode hmode) ?_
      show 1 ≤ (u.left - 1).toNat
      bv_omega
  | @counts _ hlit hdist hclen hmode _ hl hd =>
    have hnlen : (BitVec.ofNat 9 (hlit.toNat + 257)).toNat = hlit.toNat + 257 := Nat.mod_eq_of_lt (by omega)
    have hndist : (BitVec.ofNat 5 (hdist.toNat + 1)).toNat = hdist.toNat + 1 := Nat.mod_eq_of_lt (by omega)
    have hnclen : (BitVec.ofNat 5 (hclen.toNat + 4)).toNat = hclen.toNat + 4 := Nat.mod_eq_of_lt (by omega)
    refine controlInv_of_btree hmode rfl (hcode hmode) ?_ (Nat.zero_le _)
    simp only [CountsInRange, hnlen, hndist, hnclen]
    omega
  | cll hmode hstate hindex =>
    refine controlInv_of_btree hmode hstate (hcode hmode) (hctl.counts hmode (.inl hstate)) ?_
    show (u.index + 1).toNat ≤ u.nclen.toNat
    bv_omega
  | @lengths _ e i j _ lens hmode hstate _ _ _ _ hfit =>
    have hcounts := hctl.counts hmode (.inr hstate)
    refine controlInv_of_dtree hmode hstate (hcode hmode) hcounts ?_
    have hsum : (u.index + BitVec.ofNat 9 j).toNat = u.index.toNat + j := by
      rw [BitVec.toNat_add, BitVec.toNat_ofNat]
      omega
    show (u.index + BitVec.ofNat 9 j).toNat ≤ u.nlen.toNat + u.ndist.toNat
    omega
  | buildCl hmode hstate _ =>
    exact controlInv_of_dtree hmode rfl (hcode hmode) (hctl.counts hmode (.inl hstate)) (Nat.zero_le _)
  | literal hmode hstate _ _ _ | endOfBlock hmode hstate _ _ _ | length hmode hstate _ _ _ | distance hmode hstate _ _ _
  | lenExtra hmode hstate _ | distExtra hmode hstate _ | start hmode hstate _ | litWrite hmode hstate _ _ | copyDone hmode hstate _
  | wash hmode hstate _ =>
    exact controlInv_of_plain (hblocks hmode) (.inr (.inr (.inr (.inl hstate)))) nofun
  | linkLen hmode hstate _ _ _ | linkDist hmode hstate _ _ _ =>
    exact controlInv_of_plain (hblocks hmode) (.inr (.inr (.inr (.inl hstate)))) (hcode hmode)
  | copyByte hmode hstate _ _ _ =>
    refine controlInv_of_plain (hblocks hmode) (.inr (.inr (.inr (.inl hstate)))) ?_
    show (if u.lenr - 1 = 0 then .start else u.cmode) ≠ .badcode
    split
    · decide
    · exact hcode hmode

/-- A committed micro-step keeps the invariant. -/
theorem Inv.acts {n : Nat} {u t : State} (h : Inv u) (hacts : Acts n u t) (hn : n ≤ u.bitk.toNat) : Inv t :=
  ⟨hacts.memoryInv h, hacts.bitInv h hn, (hacts.windowInv h).1, hacts.sizeInv h.size, hacts.hostInv h.host, hacts.controlInv h.control,
    hacts.tableInv h.tables⟩

/-- The bits of an element are held when it is fetched (R142, R176). -/
theorem Fetch.held {s u : State} {n : Nat} (h : Fetch s n u) (hk : s.bitk.toNat ≤ 32) : n ≤ u.bitk.toNat := by
  cases h with
  | field hv hneed hn =>
    have hkv : (_ : State).bitk.toNat ≤ 32 := hv.elim (fun h => h ▸ hk) fun h => by rw [h, flush_bitk]; exact hk
    exact (needBits_ok (by omega) hkv hneed).2.1
  | len _ hlookup => exact (lookup_ok hk hlookup).2.1
  | dist _ hlookup => exact (lookup_ok hk hlookup).2.1
  | cl hfetch =>
    obtain ⟨t, ⟨hlookup, hneed⟩ | ⟨hlookup, hnone⟩⟩ := fetchCl_ok hfetch
    · exact (needBits_ok ((clBits_le _).trans (by decide)) (lookup_bitk_le hk hlookup).2 hneed).2.1
    · rw [hnone]
      exact (lookup_ok hk hlookup).2.1

/-- Every step of the running engine keeps the invariant. -/
theorem Inv.engineStep {s t : State} (h : Inv s) (hstep : EngineStep s t) : Inv t := by
  cases hstep with
  | commits hfetch hacts => exact (h.reached hfetch.reached).acts hacts (hfetch.held h.bits.count)
  | stops hreached => exact (h.reached hreached).finish _
  | raises hreached hraises => exact (h.reached hreached).raises hraises

end Sys2Proof.Machine
end


section
/-! SUPPORT. The commands and the host's moves keep the invariant, and so every step does (R64, R65, R283 to R300, R370). -/

namespace Sys2Proof.Machine

section Idle
variable {s t : State}

theorem HostInv.ret (h : HostInv s) {st : Status} (hst : st ≠ .memError) : HostInv (Machine.ret st s) :=
  ⟨h.message, codeLegal_statusCode hst, h.sumLow, h.sumHigh, h.marker, h.running⟩

theorem Inv.ret (h : Inv s) {st : Status} (hst : st ≠ .memError) : Inv (Machine.ret st s) :=
  ⟨h.memory.congr rfl, h.bits.congr rfl, h.window.congr rfl, h.size.congr rfl, h.host.ret hst, h.control.congr rfl, h.tables.congr rfl⟩

/-- `reset_state()` of an idle engine leads to the invariant (R284): of what was there it keeps the memories, the tables and the
configuration. -/
theorem inv_resetState (hmem : MemoryInv s) (htables : TableInv s) (hcode : codeLegal s.code = true) (hbusy : s.busy = false)
    (hcfg : s.own = true → 8 ≤ s.wbitsCfg.toNat) : Inv (resetState s) where
  memory := hmem.congr rfl
  bits := ⟨Nat.one_pos, Nat.zero_le _, fun _ => nofun⟩
  window := windowInv_of_empty rfl rfl rfl rfl
  size := ⟨fun hown => ⟨hcfg hown, le_rfl⟩, fun _ hflag => by
    rw [resetState_mode] at hflag
    split at hflag <;> cases hflag⟩
  host := ⟨Nat.zero_le _, hcode, show (1 : Word).toNat % 2 ^ 16 < 65521 by decide, show (1 : Word).toNat / 2 ^ 16 < 65521 by decide,
    Nat.zero_le _, fun h => absurd (hbusy.symm.trans h) (by decide)⟩
  control := controlInv_of_plain (fun _ => rfl) (.inl rfl) nofun
  tables := htables.congr rfl

theorem Inv.resetState (h : Inv s) (hbusy : s.busy = false) : Inv (Machine.resetState s) :=
  inv_resetState h.memory h.tables h.host.status hbusy fun hown => (h.size.bits hown).1.trans (h.size.bits hown).2

theorem Inv.returnFromBad (h : Inv s) (hbusy : s.busy = false) : Inv (Machine.returnFromBad s) := by
  have hreset := h.resetState hbusy
  exact ⟨hreset.memory.congr rfl, ⟨hreset.bits.noStale, hreset.bits.count, fun _ => nofun⟩, hreset.window.congr rfl,
    ⟨hreset.size.bits, fun _ => nofun⟩, hreset.host.congr rfl, controlInv_of_plain (fun _ => rfl) (.inl rfl) nofun,
    hreset.tables.congr rfl⟩

/-! ### The commands -/

/-- INIT accepts window bits of 8 to 15 only (R102). -/
theorem decodeInitArg_bounds {a : Byte} {raw : Bool} {wb : Nat} (h : decodeInitArg a = some (raw, wb)) : 8 ≤ wb ∧ wb ≤ 15 := by
  by_cases hzlib : 8 ≤ a.toInt ∧ a.toInt ≤ 15
  · rw [decodeInitArg_zlib hzlib] at h
    cases h
    omega
  · by_cases hraw : -15 ≤ a.toInt ∧ a.toInt ≤ -8
    · rw [decodeInitArg_raw hraw] at h
      cases h
      omega
    · rw [decodeInitArg_eq_none hzlib hraw] at h
      cases h

theorem winWf_winFill {bytes : List Byte} {i : Nat} {m : Memory} (hcap : i + bytes.length ≤ 32768) (hm : winWf m = true) :
    winWf (winFill m i bytes) = true := by
  induction bytes generalizing m i with
  | nil => exact hm
  | cons b bytes ih =>
    rw [List.length_cons] at hcap
    exact ih (by omega) (winWf_winStore b (by omega) hm)

/-- The dictionary is the window's history (R257, R297). -/
theorem Inv.loadDict (h : Inv s) (hmode : s.mode = .dict0) (bytes : List Byte) :
    Inv { Machine.loadDict bytes s with mode := .blocks } := by
  have htype := h.control.notBegun (by rw [hmode]; rfl)
  have hcode := (h.control.healthy (by rw [hmode]; decide)).2
  have hpos := wsize_pos s
  have hsize := wsize_le s
  have hwin : winWf (Machine.loadDict bytes s).win = true := by
    refine winWf_winFill ?_ h.memory.window
    rw [List.length_drop]
    omega
  have hwhave := loadDict_whave_toNat bytes s
  have hwr := loadDict_wr_toNat bytes s
  have hwindow : WindowInv (Machine.loadDict bytes s) := by
    refine ⟨Nat.zero_le _, by rw [hwhave]; exact Nat.min_le_right _ _, by rw [hwr]; exact Nat.mod_lt _ hpos,
      by rw [show (Machine.loadDict bytes s).rd = (Machine.loadDict bytes s).wr from rfl, hwr]; exact Nat.mod_lt _ hpos, ?_⟩
    rw [show (Machine.loadDict bytes s).rd = (Machine.loadDict bytes s).wr from rfl, hwr,
      show wsize (Machine.loadDict bytes s) = wsize s from rfl]
    exact Nat.mod_mod _ _
  exact ⟨⟨h.memory.input, h.memory.output, h.memory.dictionary, hwin⟩,
    ⟨h.bits.noStale, h.bits.count, fun _ hlens => absurd (htype.symm.trans hlens) (by decide)⟩, hwindow.congr rfl,
    ⟨h.size.bits, fun _ => nofun⟩, h.host.congr rfl, controlInv_of_plain (fun _ => htype) (.inl htype) hcode, h.tables.congr rfl⟩

theorem inWraps_of_not_busy {p : Prop} (hbusy : s.busy = false) (h : s.busy = true) : p := absurd (hbusy.symm.trans h) (by decide)

/-- SYNC's scan leaves the stream bad, its slices consumed as far as it came (R300). -/
theorem Inv.scanned (h : Inv s) (hbusy : s.busy = false) (n : Nat) : Inv (advanceIn^[n] (abandon s)) := by
  have hmarker : (if s.mode = .bad then s.marker else 0).toNat ≤ 3 := by
    split
    · exact h.host.marker
    · exact Nat.zero_le 3
  rw [scanned_eq]
  exact ⟨h.memory.congr rfl, ⟨h.bits.noStale, h.bits.count, nofun⟩, h.window.congr rfl, ⟨h.size.bits, fun _ => nofun⟩,
    ⟨h.host.message, h.host.status, h.host.sumLow, h.host.sumHigh, hmarker, inWraps_of_not_busy hbusy⟩, controlInv_of_bad rfl,
    h.tables.congr rfl⟩

/-- A command keeps the invariant (R283 to R300). -/
theorem Inv.commandStep {c : Byte} (h : Inv s) (hbusy : s.busy = false) (hstep : CommandStep c s t) : Inv t := by
  cases hstep with
  | answers hst => exact h.ret hst
  | @init raw wb _ harg =>
    obtain ⟨hlow, hhigh⟩ := decodeInitArg_bounds harg
    have hbits : 8 ≤ (BitVec.ofNat 4 wb).toNat := by rwa [toNat_ofNat_four hhigh]
    have hreset : Inv (Machine.resetState { s with
        own := true, nowrap := raw, wbitsCfg := BitVec.ofNat 4 wb,
        availIn := 0, availOut := 0, inBound := false, outBound := false }) :=
      inv_resetState (h.memory.congr rfl) (h.tables.congr rfl) h.host.status hbusy fun _ => hbits
    exact hreset.ret (by decide)
  | reset _ _ => exact (h.resetState hbusy).ret (by decide)
  | stepAnswers _ hst =>
    refine Inv.ret (s := { s with flushr := s.arg }) ?_ hst
    exact ⟨h.memory.congr rfl, h.bits.congr rfl, h.window.congr rfl, h.size.congr rfl, h.host.congr rfl, h.control.congr rfl,
      h.tables.congr rfl⟩
  | stepRuns _ hown hin hout hinw houtw _ =>
    exact ⟨h.memory.congr rfl, h.bits.congr rfl, h.window.congr rfl, h.size.congr rfl,
      ⟨h.host.message, h.host.status, h.host.sumLow, h.host.sumHigh, h.host.marker, fun _ => ⟨hown, hin, hout, hinw, houtw⟩⟩,
      h.control.congr rfl, h.tables.congr rfl⟩
  | setDict _ hmode => exact (h.loadDict hmode _).ret (by decide)
  | syncStarved _ => exact (h.scanned hbusy 0).ret (by decide)
  | @syncLost n m _ hm =>
    have hscanned := h.scanned hbusy n
    have hheld : heldMarks s ≤ 3 := heldMarks_le fun _ => h.host.marker
    have hmarker : (BitVec.ofNat 3 m).toNat ≤ 3 := by
      rw [BitVec.toNat_ofNat]
      have := hm hheld
      omega
    refine Inv.ret (s := { advanceIn^[n] (abandon s) with marker := BitVec.ofNat 3 m }) ?_ (by decide)
    exact ⟨hscanned.memory.congr rfl, hscanned.bits.congr rfl, hscanned.window.congr rfl, hscanned.size.congr rfl,
      ⟨hscanned.host.message, hscanned.host.status, hscanned.host.sumLow, hscanned.host.sumHigh, hmarker, hscanned.host.running⟩,
      hscanned.control.congr rfl, hscanned.tables.congr rfl⟩
  | @syncFound n _ _ =>
    have hidle : (advanceIn^[n] (abandon s)).busy = false := by
      rw [scanned_eq]
      exact hbusy
    exact ((h.scanned hbusy n).returnFromBad hidle).ret (by decide)
  | endCmd _ =>
    refine Inv.ret (s := { s with own := false }) ?_ (by decide)
    exact ⟨h.memory.congr rfl, h.bits.congr rfl, h.window.congr rfl, ⟨nofun, nofun⟩,
      ⟨h.host.message, h.host.status, h.host.sumLow, h.host.sumHigh, h.host.marker, inWraps_of_not_busy hbusy⟩, h.control.congr rfl,
      h.tables.congr rfl⟩

/-! ### The host -/

/-- An idle engine's invariant does not speak of the host's registers and of the host's own side (R21 to R33). -/
theorem Inv.of_engine_eq (h : Inv s) (hbusy : s.busy = false) (hmem : MemoryInv t)
    (hbits : (t.bitb, t.bitk, t.mode, t.bmode) = (s.bitb, s.bitk, s.mode, s.bmode))
    (hwindow : (t.wbits, t.wr, t.rd, t.pend, t.whave) = (s.wbits, s.wr, s.rd, s.pend, s.whave))
    (hsize : (t.own, t.wbits, t.wbitsCfg, t.mode, t.methodr) = (s.own, s.wbits, s.wbitsCfg, s.mode, s.methodr))
    (hhost : (t.msg, t.code, t.adler, t.marker, t.busy) = (s.msg, s.code, s.adler, s.marker, s.busy))
    (hcontrol : (t.mode, t.bmode, t.cmode, t.left, t.nlen, t.ndist, t.nclen, t.index) =
      (s.mode, s.bmode, s.cmode, s.left, s.nlen, s.ndist, s.nclen, s.index))
    (htables : (t.lt, t.dt, t.ct) = (s.lt, s.dt, s.ct)) : Inv t := by
  refine ⟨hmem, h.bits.congr hbits, h.window.congr hwindow, h.size.congr hsize, ?_, h.control.congr hcontrol, h.tables.congr htables⟩
  simp only [Prod.mk.injEq] at hhost
  obtain ⟨hmsg, hcode, hadler, hmarker, hidle⟩ := hhost
  exact ⟨hmsg ▸ h.host.message, hcode ▸ h.host.status, hadler ▸ h.host.sumLow, hadler ▸ h.host.sumHigh, hmarker ▸ h.host.marker,
    inWraps_of_not_busy (hidle.trans hbusy)⟩

theorem Inv.hostWrite (h : Inv s) (hbusy : s.busy = false) (reg : BitVec 8) (v : BitVec 64) : Inv (Machine.hostWrite reg v s) := by
  unfold Machine.hostWrite
  split
  all_goals exact h.of_engine_eq hbusy (h.memory.congr rfl) rfl rfl rfl rfl rfl rfl

theorem Inv.hostRead (h : Inv s) (hbusy : s.busy = false) (reg : BitVec 8) : Inv (Machine.hostRead reg s) := by
  unfold Machine.hostRead
  split
  all_goals exact h.of_engine_eq hbusy (h.memory.congr rfl) rfl rfl rfl rfl rfl rfl

theorem Inv.poke (h : Inv s) (hbusy : s.busy = false) (space : Space) (a : Word) (b : Byte) : Inv (Machine.poke space a b s) := by
  obtain ⟨hin, hout, hdict, hwin⟩ := h.memory
  cases space with
  | input => exact h.of_engine_eq hbusy ⟨Memory.wf_write _ _ hin, hout, hdict, hwin⟩ rfl rfl rfl rfl rfl rfl
  | output => exact h.of_engine_eq hbusy ⟨hin, Memory.wf_write _ _ hout, hdict, hwin⟩ rfl rfl rfl rfl rfl rfl
  | dictionary => exact h.of_engine_eq hbusy ⟨hin, hout, Memory.wf_write _ _ hdict, hwin⟩ rfl rfl rfl rfl rfl rfl

/-- After the reset input the engine is as after power-on, where the invariant holds (R370, R371). -/
theorem Inv.hardReset (h : Inv s) : Inv (Machine.hardReset s) :=
  resetStateMeetsInvariant.of_engine_eq rfl ⟨h.memory.input, h.memory.output, h.memory.dictionary, rfl⟩ rfl rfl rfl rfl rfl rfl

theorem Inv.hostMove (h : Inv s) (hbusy : s.busy = false) (m : HostMove) : Inv (Machine.hostMove m s) := by
  cases m with
  | writeReg reg v => exact h.hostWrite hbusy reg v
  | readReg reg => exact h.hostRead hbusy reg
  | poke space a b => exact h.poke hbusy space a b
  | hardReset => exact h.hardReset

theorem Inv.hostStep (h : Inv s) (hbusy : s.busy = false) (hstep : HostStep s t) : Inv t := by
  cases hstep with
  | @moves m r _ =>
    exact Inv.hostMove (h.of_engine_eq (t := { s with host := r }) hbusy (h.memory.congr rfl) rfl rfl rfl rfl rfl rfl) hbusy m
  | lays ms l => exact h.of_engine_eq hbusy (h.memory.congr rfl) rfl rfl rfl rfl rfl rfl
  | waits => exact h

end Idle

/-- Settles O53: a running engine's step, a command, a turn of the host. -/
theorem everyStepKeepsInvariant : Obligations.EveryStepKeepsInvariant := by
  unfold Obligations.EveryStepKeepsInvariant
  intro s t hinv hstep
  cases hbusy : s.busy with
  | true => exact hinv.engineStep (engineStep_of_step hbusy hstep)
  | false =>
    cases hcmd : s.cmd with
    | some c =>
      have htaken : Inv { s with cmd := none } := hinv.of_engine_eq hbusy (hinv.memory.congr rfl) rfl rfl rfl rfl rfl rfl
      exact htaken.commandStep hbusy (commandStep_of_step hbusy hcmd hstep)
    | none => exact hinv.hostStep hbusy (hostStep_of_step hbusy hcmd hstep)

end Sys2Proof.Machine
end


section
/-! SUPPORT. No step faults on slices that can be read (R92). -/

namespace Sys2Proof.Machine

/-! ### The input that is left can be read -/

/-- Every byte of the input that is left can be read, and the input does not wrap (R92, R288). -/
structure Feeds (s : State) : Prop where
  readable : inputReadable s
  fits : s.nextIn.toNat + s.availIn.toNat ≤ 2 ^ 32

theorem Inv.feeds {s : State} (h : Inv s) (hbusy : s.busy = true) (hreadable : inputReadable s) : Feeds s := by
  obtain ⟨-, -, -, hwrap, -⟩ := h.host.running hbusy
  exact ⟨hreadable, (inWraps_eq_false_iff s).1 hwrap⟩

/-- The input that is left after some of it was taken. -/
theorem Feeds.rest {k : Nat} {s t : State} (h : Feeds s) (hmem : t.memIn = s.memIn) (hptr : t.nextIn = s.nextIn + BitVec.ofNat 32 k)
    (hleft : t.availIn.toNat + k = s.availIn.toNat) : Feeds t := by
  have hfits := h.fits
  rcases Nat.eq_zero_or_pos t.availIn.toNat with hnone | hsome
  · exact ⟨fun a hlo hhi => by omega, by omega⟩
  · have hnext : t.nextIn.toNat = s.nextIn.toNat + k := by
      rw [hptr]
      bv_omega
    refine ⟨fun a hlo hhi => ?_, by omega⟩
    rw [hmem]
    exact h.readable a (by omega) (by omega)

theorem Feeds.account {k j : Nat} {s t : State} (h : Feeds s) (g : Account k j s t) : Feeds t :=
  h.rest g.host.memIn g.nextIn g.availIn

theorem Feeds.reached {s u : State} (h : Feeds s) (g : Reached s u) : Feeds u := by
  obtain ⟨k, j, hg⟩ := g.account
  exact h.account hg

theorem Feeds.read {s : State} (h : Feeds s) (havail : s.availIn ≠ 0) : ∃ b, s.memIn.read s.nextIn.toNat = some b :=
  h.readable _ le_rfl (by bv_omega)

/-! ### The operations that pull -/

/-- The operation answers or stops: it does not fault. -/
def Sound {α : Type} (g : Got α) : Prop := ∀ f, g ≠ .fault f

theorem sound_ok {α : Type} (a : α) (s : State) : Sound (.ok a s) := fun _ => nofun

theorem Sound.bind {α β : Type} {g : Got α} {k : α → State → Got β} (hg : Sound g) (hk : ∀ a t, g = .ok a t → Sound (k a t)) :
    Sound (g.bind k) := by
  cases g with
  | ok a t => exact hk a t rfl
  | stop r t => exact fun _ => nofun
  | fault f => exact absurd rfl (hg f)

section Pulls
variable {s : State} (h : Feeds s)
include h

theorem sound_pull : Sound (pull s) := by
  intro f
  obtain ⟨-, hpull⟩ | ⟨havail, hnone, -⟩ | ⟨-, b, -, hpull⟩ := pull_cases s
  · rw [hpull]
    exact nofun
  · obtain ⟨b, hread⟩ := h.read havail
    exact absurd (hnone.symm.trans hread) nofun
  · rw [hpull]
    exact nofun

theorem Feeds.pull {t : State} {a : Unit} (hpull : Machine.pull s = .ok a t) : Feeds t := h.account (account_pull hpull)

theorem sound_pulls (k : Nat) : Sound (pulls k s) := by
  induction k generalizing s with
  | zero => exact sound_ok _ _
  | succ k ih => exact (sound_pull h).bind fun _ _ hpull => ih (h.pull hpull)

theorem sound_needBits (n : Nat) : Sound (needBits n s) := sound_pulls h _

theorem sound_lookupLoop (k : Nat) (tab : List Entry) (base width : Nat) : Sound (lookupLoop k tab base width s) := by
  induction k generalizing s with
  | zero => exact sound_ok _ _
  | succ k ih =>
    rw [lookupLoop]
    split
    · exact sound_ok _ _
    · exact (sound_pull h).bind fun _ _ hpull => ih (h.pull hpull)

theorem sound_fetchBits (n : Nat) : Sound (fetchBits n s) := (sound_needBits h n).bind fun _ _ _ => sound_ok _ _

theorem sound_fetchCl : Sound (fetchCl s) := by
  refine (sound_lookupLoop h _ _ _ _).bind fun e t hlookup => ?_
  split
  · exact sound_ok _ _
  · exact (sound_needBits (h.reached (reached_of_pulls (lookup_pullsBelow hlookup) (by decide))) _).bind fun _ _ _ => sound_ok _ _

omit h in
theorem sound_room (s : State) : Sound (room s) := by
  by_cases hfull : s.pend.toNat = wsize s
  · rw [room_of_full hfull]
    split
    · exact fun _ => nofun
    · exact sound_ok _ _
  · rw [room_of_free hfull]
    exact sound_ok _ _

theorem sound_fetch (slot : Slot) : Sound (fetch slot s) := by
  cases slot with
  | command | align n => exact sound_ok _ _
  | stored =>
    refine (sound_room s).bind fun _ t hroom => sound_fetchBits ?_ 8
    obtain rfl | rfl := room_ok_eq hroom
    · exact h
    · exact h.reached (reached_flush s)
  | dtree => exact sound_fetchCl h
  | len | dist => exact sound_lookupLoop h _ _ _ _
  | _ => exact sound_fetchBits h _

end Pulls

/-! ### The meanings -/

/-- The outcome is a next state. -/
def Proceeds (o : Host.Outcome State Fault Refusal) : Prop := ∃ t, o = .next t

theorem proceeds_next (t : State) : Proceeds (.next t) := ⟨t, rfl⟩

theorem Proceeds.ite {p : Prop} [Decidable p] {o q : Host.Outcome State Fault Refusal} (ho : p → Proceeds o) (hq : ¬p → Proceeds q) :
    Proceeds (if p then o else q) := iteInduction ho hq

theorem Sound.settle {α : Type} {g : Got α} {k : α → State → Host.Outcome State Fault Refusal} (hg : Sound g)
    (hk : ∀ a t, Proceeds (k a t)) : Proceeds (settle g k) := by
  cases g with
  | ok a t => exact hk a t
  | stop r t => exact proceeds_next _
  | fault f => exact absurd rfl (hg f)

theorem proceeds_requireOwn {s : State} {k : State → Host.Outcome State Fault Refusal} (h : Proceeds (k s)) :
    Proceeds (requireOwn s k) := .ite (fun _ => h) fun _ => proceeds_next _

theorem proceeds_stepCmd (s : State) : Proceeds (execStepCmd s) := by
  refine proceeds_requireOwn (.ite (fun _ => proceeds_next _) fun _ => .ite (fun _ => proceeds_next _) fun _ =>
    .ite (fun _ => proceeds_next _) fun _ => ?_)
  split <;> exact proceeds_next _

/-- The entry of a symbol has a next state in each of its classes (R174, R177, R180). -/
theorem proceeds_decodeEntry (e : Entry) (s : State) : Proceeds (exec (decodeEntry e) s) := by
  unfold decodeEntry
  split
  · show Proceeds (execTLit _ _ _)
    unfold execTLit
    split <;> exact proceeds_next _
  · show Proceeds (execTLink _ _ _ _)
    unfold execTLink
    split <;> exact proceeds_next _
  · show Proceeds (execTBase _ _ _ _)
    unfold execTBase
    split <;> exact proceeds_next _
  · show Proceeds (execTEob _ e.val _)
    unfold execTEob
    split <;> exact proceeds_next _
  · exact proceeds_next _

/-- A symbol of an alphabet has a next state, and so has its entry. -/
theorem proceeds_getD_decodeEntry {o : Option Instr} {e : Entry} {s : State} (h : ∀ i, o = some i → Proceeds (exec i s)) :
    Proceeds (exec (o.getD (decodeEntry e)) s) := by
  cases o with
  | none => exact proceeds_decodeEntry e s
  | some i => exact h i rfl

theorem proceeds_decodeCl (e : Entry) (s : State) : Proceeds (exec (decodeCl e s.bitb.toNat) s) := by
  unfold decodeCl
  split
  · split
    · exact proceeds_getD_decodeEntry fun i hi => ⟨_, exec_clInstr hi⟩
    · exact proceeds_decodeEntry e s
  · split
    · exact proceeds_next _
    · exact proceeds_decodeEntry e s
  · exact proceeds_decodeEntry e s

theorem proceeds_decodeLl (e : Entry) (bits : Nat) (s : State) : Proceeds (exec (decodeLl e bits) s) := by
  unfold decodeLl
  split
  · split
    · exact proceeds_next _
    · exact proceeds_decodeEntry e s
  · split
    · refine proceeds_getD_decodeEntry fun i hi => ?_
      obtain ⟨k, -, hk⟩ := Option.bind_eq_some_iff.1 hi
      exact ⟨_, exec_lenInstr hk s⟩
    · exact proceeds_decodeEntry e s
  · split
    · exact proceeds_next _
    · exact proceeds_decodeEntry e s
  · exact proceeds_decodeEntry e s
  · split
    · split_ifs <;> exact proceeds_next _
    · exact proceeds_decodeEntry e s

theorem proceeds_decodeDist (e : Entry) (bits : Nat) (s : State) : Proceeds (exec (decodeDist e bits) s) := by
  unfold decodeDist
  split
  · split
    · refine proceeds_getD_decodeEntry fun i hi => ?_
      obtain ⟨k, -, hk⟩ := Option.bind_eq_some_iff.1 hi
      exact ⟨_, exec_distInstr hk s⟩
    · exact proceeds_decodeEntry e s
  · split
    · split_ifs <;> exact proceeds_next _
    · exact proceeds_decodeEntry e s
  · exact proceeds_decodeEntry e s

/-- Every element of the stream has a next state. -/
theorem proceeds_element {slot : Slot} (hslot : slot ≠ .command) (e : Entry) (s : State) :
    Proceeds (exec (decode slot e s.bitb) s) := by
  cases slot with
  | command => exact absurd rfl hslot
  | method => exact .ite (fun _ => proceeds_next _) fun _ => .ite (fun _ => proceeds_next _) fun _ => proceeds_next _
  | header =>
    show Proceeds (exec (decodeHeader s.bitb.toNat) s)
    unfold decodeHeader
    split <;> exact proceeds_next _
  | stored => exact (sound_room s).settle fun _ _ => proceeds_next _
  | dtree => exact proceeds_decodeCl e s
  | len => exact proceeds_decodeLl e _ s
  | dist => exact proceeds_decodeDist e _ s
  | dict k | btree | lenext w | distext w => exact proceeds_next _
  | flag | check k | align n | lens | table => exact .ite (fun _ => proceeds_next _) fun _ => proceeds_next _

theorem proceeds_drain (k : State → State) (s : State) : Proceeds (drain k s) :=
  .ite (fun _ => proceeds_next _) fun _ => proceeds_next _

theorem proceeds_micro {m : Micro} (hm : m ≠ .dead) (s : State) : Proceeds (runMicro m s) := by
  cases m with
  | dead => exact absurd rfl hm
  | litWrite => exact (sound_room s).settle fun _ _ => proceeds_next _
  | copy =>
    exact .ite (fun _ => proceeds_next _) fun _ => .ite (fun _ => proceeds_next _) fun _ =>
      (sound_room s).settle fun _ _ => proceeds_next _
  | wash => exact proceeds_drain (fun t => { t with cmode := .blockEnd }) s
  | dry => exact proceeds_drain (fun t => { t with bmode := .bdone }) s
  | _ => exact proceeds_next _

/-! ### What is selected -/

/-- `BBAD` and `BADCODE` are never dispatched (R210, R238). -/
theorem select_ne_dead {s : State} (hblock : s.mode = .blocks → s.bmode ≠ .bbad) (hcodes : s.mode = .blocks → s.cmode ≠ .badcode) :
    select s ≠ .micro .dead := by
  cases hmode : s.mode
  case blocks =>
    rw [select_of_blocks hmode, selectBlock]
    cases hbmode : s.bmode
    case codes =>
      dsimp only
      rw [selectCodes]
      cases hcmode : s.cmode
      case badcode => exact absurd hcmode (hcodes hmode)
      all_goals nofun
    case bbad => exact absurd hbmode (hblock hmode)
    case btree | dtree | bdone =>
      dsimp only
      split <;> nofun
    all_goals nofun
  all_goals
    rw [select, hmode]
    nofun

/-! ### The commands that read a slice -/

theorem readSlice_ok {m : Memory} {a k : Nat} (h : ∀ i, a ≤ i → i < a + k → ∃ b, m.read i = some b) :
    ∃ bytes, readSlice m a k = .ok bytes := by
  induction k generalizing a with
  | zero => exact ⟨[], rfl⟩
  | succ k ih =>
    obtain ⟨b, hb⟩ := h a le_rfl (by omega)
    obtain ⟨r, hr⟩ := ih (a := a + 1) fun i hlo hhi => h i (by omega) (by omega)
    exact ⟨b :: r, by rw [readSlice, hb]; dsimp only; rw [hr]⟩

theorem proceeds_setDict {s : State}
    (h : ∀ a, s.dictPtr.toNat ≤ a → a < s.dictPtr.toNat + s.dictLen.toNat → ∃ b, s.memDict.read a = some b) :
    Proceeds (execSetDict s) := by
  obtain ⟨bytes, hbytes⟩ := readSlice_ok h
  refine proceeds_requireOwn (.ite (fun _ => proceeds_next _) fun _ => .ite (fun _ => proceeds_next _) fun _ => ?_)
  rw [hbytes]
  exact .ite (fun _ => proceeds_next _) fun _ => proceeds_next _

theorem sound_syncScan {k m : Nat} {s : State} (h : Feeds s) (hk : k ≤ s.availIn.toNat) : Sound (syncScan k m s) := by
  induction k generalizing m s with
  | zero => exact sound_ok _ _
  | succ k ih =>
    have havail : s.availIn ≠ 0 := by
      rintro hzero
      rw [hzero] at hk
      exact absurd hk (Nat.not_succ_le_zero k)
    obtain ⟨b, hb⟩ := h.read havail
    have hleft := (account_advanceIn havail).availIn
    rw [syncScan, hb]
    split
    · exact sound_ok _ _
    · exact ih (h.account (account_advanceIn havail)) (by omega)

theorem proceeds_sync {s : State} (h : inputReadable s) : Proceeds (execSync s) := by
  refine proceeds_requireOwn (.ite (fun _ => proceeds_next _) fun hslice => .ite (fun _ => proceeds_next _) fun _ => ?_)
  have hfeeds : Feeds (abandon s) := by
    simp only [Bool.or_eq_true, not_or, Bool.not_eq_true] at hslice
    rw [abandon_eq]
    exact ⟨h, (inWraps_eq_false_iff s).1 hslice.2⟩
  have hsound := sound_syncScan (m := (abandon s).marker.toNat) hfeeds le_rfl
  split
  · next f hf => exact absurd hf (hsound f)
  · exact proceeds_next _
  · exact .ite (fun _ => proceeds_next _) fun _ => proceeds_next _

theorem proceeds_command {s : State} (hin : inputReadable s)
    (hdict : ∀ a, s.dictPtr.toNat ≤ a → a < s.dictPtr.toNat + s.dictLen.toNat → ∃ b, s.memDict.read a = some b) (c : Byte) :
    Proceeds (exec (decodeCommand c) s) := by
  unfold decodeCommand
  split
  · show Proceeds (execInit s)
    unfold execInit
    split <;> exact proceeds_next _
  · exact proceeds_requireOwn (k := fun s => .next (ret .ok (resetState s))) (proceeds_next _)
  · exact proceeds_stepCmd s
  · exact proceeds_setDict hdict
  · exact proceeds_sync hin
  · exact proceeds_requireOwn (k := fun s => .next (ret .ok { s with own := false })) (proceeds_next _)
  · exact proceeds_next _

/-! ### Every step -/

theorem proceeds_running {s : State} (h : Inv s) (hbusy : s.busy = true) (hin : inputReadable s) : Proceeds (step s) := by
  have hhealthy (hmode : s.mode = .blocks) := h.control.healthy (by rw [hmode]; decide)
  cases hselect : select s with
  | micro m =>
    rw [step_of_micro hbusy hselect]
    refine proceeds_micro (fun hm => ?_) s
    exact select_ne_dead (fun hmode => (hhealthy hmode).1) (fun hmode => (hhealthy hmode).2) (hm ▸ hselect)
  | element slot =>
    rw [step_of_element hbusy hselect]
    refine (sound_fetch (h.feeds hbusy hin) slot).settle fun e t => proceeds_element (fun hslot => ?_) e t
    exact select_ne_command s (hslot ▸ hselect)

/-- Settles O54: a fault is an unreadable byte or `BBAD`/`BADCODE` dispatched. The input that is left stays readable, and the
invariant keeps the dead sub-states out of `BLOCKS`. -/
theorem stepNeverFaultsOnReadableSlices : Obligations.StepNeverFaultsOnReadableSlices := by
  unfold Obligations.StepNeverFaultsOnReadableSlices
  intro s h hin hdict
  cases hbusy : s.busy with
  | true => exact proceeds_running h hbusy hin
  | false =>
    cases hcmd : s.cmd with
    | none => exact ⟨_, step_of_idle hbusy hcmd⟩
    | some c =>
      rw [step_of_command hbusy hcmd]
      exact proceeds_command (s := { s with cmd := none }) hin hdict c

end Sys2Proof.Machine
end


section
/-! SUPPORT. Every STEP ends (R11, R388): each micro-step takes bits of the input, or brings the engine nearer to one that does. -/

namespace Sys2Proof.Machine

/-- The bits of the input that are left, those held counted in. -/
def bitsLeft (s : State) : Nat := s.bitk.toNat + 8 * s.availIn.toNat

/-- How many micro-steps the symbol engine makes before it takes bits, at most; a length is at most 511. -/
def codesRank (s : State) : Nat :=
  match s.cmode with
  | .start => 1
  | .lit => 2
  | .copy => 2 + s.lenr.toNat
  | .distext => 514
  | .lenext => 1
  | .wash => 4
  | .blockEnd => 3
  | .len | .dist | .badcode => 0

/-- How many micro-steps the engine makes before it takes bits or leaves `BLOCKS`, at most. -/
def stepRank (s : State) : Nat :=
  if s.mode = .blocks then
    match s.bmode with
    | .codes => codesRank s
    | .btree => 3
    | .dtree | .dry => 2
    | .bdone => 1
    | .type | .lens | .stored | .table | .bbad => 0
  else 0

theorem codesRank_le (s : State) : codesRank s ≤ 514 := by
  unfold codesRank
  split <;> omega

theorem stepRank_le (s : State) : stepRank s ≤ 514 := by
  unfold stepRank
  split
  · split
    case h_1 => exact codesRank_le s
    all_goals omega
  · omega

theorem stepRank_of_codes {s : State} (hmode : s.mode = .blocks) (hbmode : s.bmode = .codes) : stepRank s = codesRank s := by
  rw [stepRank, if_pos hmode, hbmode]

theorem stepRank_lt_of_codes {s t : State} (hmode : s.mode = .blocks) (hbmode : s.bmode = .codes) (htmode : t.mode = .blocks)
    (htbmode : t.bmode = .codes) (h : codesRank t < codesRank s) : stepRank t < stepRank s := by
  rwa [stepRank_of_codes hmode hbmode, stepRank_of_codes htmode htbmode]

theorem stepRank_of_not_blocks {s : State} (hmode : s.mode ≠ .blocks) : stepRank s = 0 := if_neg hmode

theorem stepRank_congr {s t : State} (h : (t.mode, t.bmode, t.cmode, t.lenr) = (s.mode, s.bmode, s.cmode, s.lenr)) :
    stepRank t = stepRank s := by
  simp only [Prod.mk.injEq] at h
  obtain ⟨hmode, hbmode, hcmode, hlenr⟩ := h
  unfold stepRank codesRank
  rw [hmode, hbmode, hcmode, hlenr]

theorem stepRank_afterBlock {s : State} (hmode : s.mode = .blocks) : stepRank { s with bmode := afterBlock s } ≤ 2 := by
  obtain h | h := afterBlock_cases s <;> rw [stepRank, if_pos hmode, h]
  exact Nat.zero_le 2

/-! ### What a step leaves of the input -/

theorem bitsLeft_pull {s t : State} {a : Unit} (hbits : s.bitk.toNat < 32) (h : pull s = .ok a t) : bitsLeft t = bitsLeft s := by
  have hleft := (account_pull h).availIn
  obtain ⟨-, b, -, rfl⟩ := pull_ok h
  have hheld := pull_bitk b s (by omega)
  unfold bitsLeft
  omega

theorem PullsBelow.bitsLeft {n : Nat} {s u : State} (h : PullsBelow n s u) (hn : n ≤ 32) :
    Machine.bitsLeft u = Machine.bitsLeft s := by
  induction h with
  | refl s => rfl
  | pull hbits hpull _ ih => exact ih.trans (bitsLeft_pull (by omega) hpull)

theorem bitsLeft_flush (s : State) : bitsLeft (flush s) = bitsLeft s := by rw [bitsLeft, flush_bitk, flush_availIn, bitsLeft]

theorem Reached.bitsLeft {s u : State} (h : Reached s u) : Machine.bitsLeft u = Machine.bitsLeft s := by
  obtain ⟨v, n, rfl | rfl, hpulls, hn⟩ := h
  · exact hpulls.bitsLeft (by omega)
  · exact (hpulls.bitsLeft (by omega)).trans (bitsLeft_flush s)

theorem Reached.stepRank {s u : State} (h : Reached s u) : Machine.stepRank u = Machine.stepRank s := by
  obtain ⟨v, n, rfl | rfl, hpulls, -⟩ := h
  · rw [hpulls.pulled]
    exact stepRank_congr rfl
  · rw [hpulls.pulled, flush_delivered s]
    exact stepRank_congr rfl

theorem Acts.bitsLeft {n : Nat} {u t : State} (h : Acts n u t) (hn : n ≤ u.bitk.toNat) :
    Machine.bitsLeft t + n ≤ Machine.bitsLeft u := by
  obtain ⟨m, hnm, hm, hbitk, -⟩ := h.drops hn
  have hleft := h.works.account.availIn
  unfold Machine.bitsLeft
  omega

/-! ### A micro-step takes bits or counts down -/

theorem EntryLive.bits_pos {e : Entry} (h : EntryLive e) (hclass : entryClass e.op ≠ .invalid) : 1 ≤ e.bits.toNat :=
  h.resolve_left hclass

theorem Acts.takes_or_ranks {n : Nat} {u t : State} (h : Acts n u t) (htables : TableInv u) : 1 ≤ n ∨ stepRank t < stepRank u := by
  have hsymbol {tab : List Entry} {e : Entry} {base width : Nat} (htab : tableLive tab = true) (he : e = chosenEntry tab base width u)
      (hclass : entryClass e.op ≠ .invalid) : 1 ≤ e.bits.toNat :=
    EntryLive.bits_pos (he ▸ entryLive_entryAt htab _) hclass
  cases h with
  | lengths _ _ he hclass hn _ _ =>
    refine .inl (hn ▸ Nat.le_add_right_of_le (EntryLive.bits_pos ?_ (by rw [hclass]; decide)))
    rw [he]
    exact entryLive_entryAt htables.ct _
  | literal _ _ _ he hclass | endOfBlock _ _ _ he hclass | length _ _ _ he hclass | linkLen _ _ _ he hclass =>
    exact .inl (hsymbol htables.lt he (by rw [hclass]; nofun))
  | distance _ _ _ he hclass | linkDist _ _ _ he hclass => exact .inl (hsymbol htables.dt he (by rw [hclass]; nofun))
  | align hmode hbmode | bdoneRaw hmode hbmode =>
    refine .inr ?_
    rw [stepRank_of_not_blocks (by nofun), stepRank, if_pos hmode, hbmode]
    exact Nat.one_pos
  | dry hmode hbmode | buildCl hmode hbmode _ | buildCodes hmode hbmode _ _ =>
    refine .inr ?_
    rw [stepRank, if_pos hmode, stepRank, if_pos hmode, hbmode]
    exact Nat.lt_succ_self _
  | blockEnd hmode hbmode hcmode =>
    have hrank : stepRank u = 3 := by rw [stepRank_of_codes hmode hbmode, codesRank, hcmode]
    exact .inr (hrank ▸ Nat.lt_succ_of_le (stepRank_afterBlock hmode))
  | copyByte hmode hbmode hcmode hlen _ =>
    refine .inr (stepRank_lt_of_codes hmode hbmode hmode hbmode ?_)
    by_cases hlast : u.lenr - 1 = 0
    · simp only [codesRank, hcmode, if_pos hlast]
      omega
    · simp only [codesRank, hcmode, if_neg hlast]
      bv_omega
  | distExtra hmode hbmode hcmode | lenExtra hmode hbmode hcmode | start hmode hbmode hcmode | litWrite hmode hbmode hcmode _
  | copyDone hmode hbmode hcmode | wash hmode hbmode hcmode =>
    refine .inr (stepRank_lt_of_codes hmode hbmode hmode hbmode ?_)
    simp only [codesRank, hcmode]
    omega
  | _ => exact .inl (by decide)

/-! ### The end -/

/-- The bits left count more than any rank. -/
def stepMeasure (s : State) : Nat := bitsLeft s * 515 + stepRank s

theorem stepMeasure_lt {s t u : State} {n : Nat} (hinv : Inv s) (hfetch : Fetch s n u) (hacts : Acts n u t) :
    stepMeasure t < stepMeasure s := by
  have hreached := hfetch.reached
  have hbits := hacts.bitsLeft (hfetch.held hinv.bits.count)
  have hrank := stepRank_le t
  rw [hreached.bitsLeft] at hbits
  unfold stepMeasure
  obtain hn | hless := hacts.takes_or_ranks (hinv.reached hreached).tables
  · have := Nat.mul_le_mul_right 515 (show bitsLeft t + 1 ≤ bitsLeft s by omega)
    omega
  · rw [hreached.stepRank] at hless
    have := Nat.mul_le_mul_right 515 (show bitsLeft t ≤ bitsLeft s by omega)
    omega

theorem EngineStep.measure {s t : State} (h : EngineStep s t) (hinv : Inv s) : t.busy = false ∨ stepMeasure t < stepMeasure s := by
  cases h with
  | commits hfetch hacts => exact .inr (stepMeasure_lt hinv hfetch hacts)
  | stops _ => exact .inl rfl
  | raises _ hraises => cases hraises <;> exact .inl rfl

/-- Settles O55: the bits left of the input, and with them the micro-steps until bits are taken again, go down with every micro-step. -/
theorem runningStepTerminates : Obligations.RunningStepTerminates := by
  unfold Obligations.RunningStepTerminates
  intro s hinv hbusy hin
  induction hm : stepMeasure s using Nat.strong_induction_on generalizing s with
  | h m ih =>
    obtain ⟨t, hstep⟩ := proceeds_running hinv hbusy hin
    have hengine := engineStep_of_step hbusy hstep
    cases hrun : t.busy with
    | false => exact ⟨1, t, run_succ_of_step hstep 0, hrun⟩
    | true =>
      have hless : stepMeasure t < m := hm ▸ (hengine.measure hinv).resolve_left (by simp [hrun])
      obtain ⟨k, j, haccount⟩ := hengine.account
      have hrest := ((hinv.feeds hbusy hin).account haccount).readable
      obtain ⟨n, v, hv, hidle⟩ := ih _ hless t (hinv.engineStep hengine) hrun hrest rfl
      exact ⟨n + 1, v, (run_succ_of_step hstep n).trans hv, hidle⟩

end Sys2Proof.Machine
end


section
/-! SUPPORT. The canonical code of an accepted set: every index begins with at most one code, and of a complete set with one (R122). -/

namespace Sys2Proof.Machine

/-! ### The used symbols in order (R167) -/

theorem assignCodes_map (lens : List Nat) (s : Nat) (next : List Nat) :
    (assignCodes lens s next).map (fun u => (u.sym, u.len)) =
      ((List.range lens.length).map (fun k => (s + k, lens.getD k 0))).filter (fun p => p.2 ≠ 0) := by
  induction lens generalizing s next with
  | nil => rfl
  | cons l lens ih =>
    have hshift : ((fun k => (s + k, (l :: lens).getD k 0)) ∘ Nat.succ) = fun k => (s + 1 + k, lens.getD k 0) := by
      funext k
      exact congrArg (·, lens.getD k 0) (by omega)
    rw [List.length_cons, List.range_succ_eq_map, List.map_cons, List.map_map, hshift, assignCodes]
    by_cases hl : l = 0
    · simp [hl, ih]
    · simp [hl, ih]

theorem usedCodes_map (lens : List Nat) :
    (usedCodes lens).map (fun u => (u.sym, u.len)) =
      ((List.range lens.length).map (fun s => (s, lens.getD s 0))).filter (fun p => p.2 ≠ 0) := by
  rw [usedCodes, assignCodes_map]
  simp only [Nat.zero_add]

theorem usedCodes_rcode {lens : List Nat} (h : ∀ l ∈ lens, l ≤ 15) {u : Used} (hu : u ∈ usedCodes lens) :
    u.rcode = rev (spaceBelow lens u.len + (lens.take u.sym).count u.len) u.len := by
  obtain ⟨hget, -, hcode⟩ := (mem_usedCodes h u).1 hu
  rw [hcode, codeOf_eq hget, firstCode_eq_spaceBelow]

/-! ### Indices that begin with a code -/

/-- The index `x`, its lowest bit the first, begins with the code of `u` (R167). -/
def Begins (x : Nat) (u : Used) : Prop := x % 2 ^ u.len = u.rcode

/-- A length set that `build` accepts (R163, R164, R166). -/
structure Accepted (lens : List Nat) : Prop where
  le : ∀ l ∈ lens, l ≤ 15
  fits : overSubscribed lens = false
  full : kraftSum lens = 2 ^ 15 ∨ lens.filter (· ≠ 0) = [1]

theorem accepted_of_build {lens : List Nat} {root : Nat} {kind : Kind} {t : List Entry} (h : ∀ l ∈ lens, l ≤ 15)
    (hbuild : build lens root kind = .ok t) : Accepted lens := by
  have hused : ∃ l ∈ lens, l ≠ 0 := by
    by_contra hnone
    push Not at hnone
    rw [build_of_unused hnone] at hbuild
    cases hbuild
  rw [build_of_used h hused] at hbuild
  split_ifs at hbuild with hover hforb
  refine ⟨h, ?_, ?_⟩
  · rwa [← Bool.not_eq_true, overSubscribed_iff h]
  · by_contra hfull
    rw [not_or] at hfull
    exact hforb ⟨by omega, hfull.2⟩

section Codes
variable {lens : List Nat} (h : Accepted lens)
include h

theorem Accepted.len {u : Used} (hu : u ∈ usedCodes lens) : 0 < u.len ∧ u.len ≤ 15 := usedCodes_len h.le hu

omit h in
theorem usedCodes_rcode_lt {u : Used} (hle : ∀ l ∈ lens, l ≤ 15) (hu : u ∈ usedCodes lens) : u.rcode < 2 ^ u.len := by
  rw [usedCodes_rcode hle hu]
  exact rev_lt _ _

/-- An index begins with one code at most (R122). -/
theorem Accepted.begins_unique {x : Nat} {u v : Used} (hu : u ∈ usedCodes lens) (hv : v ∈ usedCodes lens) (hxu : Begins x u)
    (hxv : Begins x v) : u = v := by
  have hprefix {u v : Used} (hle : u.len ≤ v.len) (hxu : Begins x u) (hxv : Begins x v) : v.rcode % 2 ^ u.len = u.rcode := by
    rw [← hxv, Nat.mod_mod_of_dvd _ (Nat.pow_dvd_pow 2 hle), hxu]
  rcases Nat.le_total u.len v.len with hle | hle
  · exact usedCodes_prefix_free h.le h.fits hu hv hle (hprefix hle hxu hxv)
  · exact (usedCodes_prefix_free h.le h.fits hv hu hle (hprefix hle hxv hxu)).symm

omit h in
/-- Each occurrence of a length is that of a symbol, found by how many came before it. -/
theorem exists_count_take_eq {b k : Nat} (hk : k < lens.count b) : ∃ s : Nat, lens[s]? = some b ∧ (lens.take s).count b = k := by
  induction lens generalizing k with
  | nil => exact absurd hk (Nat.not_lt_zero k)
  | cons l lens ih =>
    by_cases hl : l = b
    · subst hl
      cases k with
      | zero => exact ⟨0, rfl, rfl⟩
      | succ k =>
        obtain ⟨s, hs, hcount⟩ := ih (k := k) (by rw [List.count_cons_self] at hk; omega)
        exact ⟨s + 1, hs, by rw [List.take_succ_cons, List.count_cons_self, hcount]⟩
    · obtain ⟨s, hs, hcount⟩ := ih (k := k) (by rwa [List.count_cons_of_ne hl] at hk)
      exact ⟨s + 1, hs, by rw [List.take_succ_cons, List.count_cons_of_ne hl, hcount]⟩

/-- Every value below the first code of the lengths from `b + 1` on, as 15 bits, begins with a code of at most `b` bits. -/
theorem Accepted.exists_begins_of_lt {b y : Nat} (hb : b ≤ 15) (hy : y < (firstCode lens b + lenCount lens b) * 2 ^ (15 - b)) :
    ∃ u ∈ usedCodes lens, Begins (rev y 15) u := by
  induction b with
  | zero => exact absurd hy (by simp [firstCode, lenCount])
  | succ b ih =>
    by_cases hlow : y < (firstCode lens b + lenCount lens b) * 2 ^ (15 - b)
    · exact ih (by omega) hlow
    have hstart : firstCode lens (b + 1) ≤ y / 2 ^ (15 - (b + 1)) := by
      rw [Nat.le_div_iff_mul_le (Nat.two_pow_pos _)]
      rw [show 15 - b = 15 - (b + 1) + 1 by omega, Nat.pow_succ] at hlow
      rw [firstCode]
      linarith
    have hend : y / 2 ^ (15 - (b + 1)) < firstCode lens (b + 1) + lenCount lens (b + 1) := by
      rwa [Nat.div_lt_iff_lt_mul (Nat.two_pow_pos _)]
    obtain ⟨s, hs, hcount⟩ := exists_count_take_eq (lens := lens) (b := b + 1) (k := y / 2 ^ (15 - (b + 1)) - firstCode lens (b + 1))
      (by rw [lenCount, if_neg (Nat.succ_ne_zero b)] at hend; omega)
    refine ⟨⟨s, b + 1, rev (codeOf lens s) (b + 1)⟩, (mem_usedCodes h.le _).2 ⟨hs, Nat.succ_ne_zero b, rfl⟩, ?_⟩
    show rev y 15 % 2 ^ (b + 1) = rev (codeOf lens s) (b + 1)
    rw [rev_mod_two_pow _ hb, codeOf_eq hs, hcount, Nat.add_sub_cancel' hstart]

/-- Every index begins with a code of a complete set (R122, R164). -/
theorem Accepted.exists_begins (hfull : kraftSum lens = 2 ^ 15) (x : Nat) : ∃ u ∈ usedCodes lens, Begins x u := by
  have hspace : firstCode lens 15 + lenCount lens 15 = 2 ^ 15 := by
    have hkraft := kraftSum_eq h.le
    rw [firstCode] at hkraft
    omega
  obtain ⟨u, hu, hbegins⟩ := h.exists_begins_of_lt (b := 15) (y := rev (x % 2 ^ 15) 15) le_rfl (by
    rw [hspace]
    exact (rev_lt _ _).trans_le (Nat.le_mul_of_pos_right _ (Nat.two_pow_pos _)))
  refine ⟨u, hu, ?_⟩
  rwa [rev_rev (Nat.mod_lt _ (Nat.two_pow_pos 15)), Begins, Nat.mod_mod_of_dvd _ (Nat.pow_dvd_pow 2 (h.len hu).2)] at hbegins

omit h in
/-- All used lengths of the single 1-bit code are 1 (R164). -/
theorem len_eq_one_of_single (hle : ∀ l ∈ lens, l ≤ 15) (hsingle : lens.filter (· ≠ 0) = [1]) {u : Used} (hu : u ∈ usedCodes lens) :
    u.len = 1 := by
  obtain ⟨hget, hne, -⟩ := (mem_usedCodes hle u).1 hu
  have hmem : u.len ∈ lens.filter (· ≠ 0) := List.mem_filter.2 ⟨List.mem_of_getElem? hget, by simpa using hne⟩
  rw [hsingle] at hmem
  exact List.mem_singleton.1 hmem

end Codes

/-! ### A level's index, the bits before it skipped -/

/-- The index with `skip` more bits `p` before it. -/
theorem mul_add_mod_two_pow (i : Nat) {p skip l : Nat} (hp : p < 2 ^ skip) (hle : skip ≤ l) :
    (i * 2 ^ skip + p) % 2 ^ l = i % 2 ^ (l - skip) * 2 ^ skip + p := by
  obtain ⟨m, rfl⟩ := Nat.exists_eq_add_of_le hle
  have hlt : i % 2 ^ m * 2 ^ skip + p < 2 ^ (skip + m) := by
    have hmod := Nat.mul_le_mul_right (2 ^ skip) (Nat.succ_le_of_lt (Nat.mod_lt i (Nat.two_pow_pos m)))
    rw [Nat.pow_add, Nat.mul_comm (2 ^ skip)]
    rw [Nat.succ_mul] at hmod
    omega
  have hsplit : i * 2 ^ skip + p = i % 2 ^ m * 2 ^ skip + p + 2 ^ (skip + m) * (i / 2 ^ m) := by
    conv_lhs => rw [← Nat.mod_add_div i (2 ^ m)]
    rw [Nat.pow_add]
    ring
  rw [Nat.add_sub_cancel_left, hsplit, Nat.add_mul_mod_self_left, Nat.mod_eq_of_lt hlt]

/-- In a level the rest of a code is looked for, its first `skip` bits being `p` (R169, R170). -/
theorem rest_iff_begins {i p skip : Nat} {u : Used} (hskip : skip ≤ u.len) (hp : u.rcode % 2 ^ skip = p) :
    i % 2 ^ (u.len - skip) = u.rcode / 2 ^ skip ↔ Begins (i * 2 ^ skip + p) u := by
  have hlt : p < 2 ^ skip := hp ▸ Nat.mod_lt _ (Nat.two_pow_pos skip)
  have hcode : u.rcode = u.rcode / 2 ^ skip * 2 ^ skip + p := by rw [← hp, Nat.mul_comm, Nat.div_add_mod]
  rw [Begins, mul_add_mod_two_pow i hlt hskip]
  constructor
  · intro heq
    rw [heq, ← hcode]
  · intro heq
    rw [hcode] at heq
    exact Nat.eq_of_mul_eq_mul_right (Nat.two_pow_pos skip) (Nat.add_right_cancel heq)

section Level
variable {lens : List Nat} (h : Accepted lens) (kind : Kind) {us : List Used} {skip p : Nat}
  (hus : ∀ u ∈ us, u ∈ usedCodes lens ∧ skip ≤ u.len ∧ u.rcode % 2 ^ skip = p)
include h hus

/-- A level holds the entry of a symbol at every index that begins with the rest of its code (R169, R170). -/
theorem Accepted.levelEntry_of_mem {u : Used} (hu : u ∈ us) {i : Nat} (hi : i % 2 ^ (u.len - skip) = u.rcode / 2 ^ skip) :
    levelEntry kind us skip i = symbolEntry kind u.sym (u.len - skip) := by
  have hbegins {v : Used} (hv : v ∈ us) (hrest : i % 2 ^ (v.len - skip) = v.rcode / 2 ^ skip) : Begins (i * 2 ^ skip + p) v :=
    (rest_iff_begins (hus v hv).2.1 (hus v hv).2.2).1 hrest
  obtain ⟨v, hv, hrest, he⟩ | ⟨hnone, -⟩ := levelEntry_cases kind us skip i
  · rw [he, h.begins_unique (hus v hv).1 (hus u hu).1 (hbegins hv hrest) (hbegins hu hi)]
  · exact absurd hi (hnone u hu)

end Level

end Sys2Proof.Machine
end


section
/-! SUPPORT. Where a table has its levels: the root first, then a sub-table for the first bits of longer codes (R166, R169, R170). -/

namespace Sys2Proof.Machine

/-! ### The greatest of a list -/

theorem le_foldl_max (l : List Nat) (a : Nat) : a ≤ l.foldl max a ∧ ∀ x ∈ l, x ≤ l.foldl max a := by
  induction l generalizing a with
  | nil => exact ⟨le_rfl, nofun⟩
  | cons b l ih =>
    obtain ⟨hstart, hrest⟩ := ih (max a b)
    refine ⟨(le_max_left a b).trans hstart, fun x hx => ?_⟩
    obtain rfl | hx := List.mem_cons.1 hx
    · exact (le_max_right a x).trans hstart
    · exact hrest x hx

theorem foldl_max_mem (l : List Nat) (a : Nat) : l.foldl max a = a ∨ l.foldl max a ∈ l := by
  induction l generalizing a with
  | nil => exact .inl rfl
  | cons b l ih =>
    rw [List.foldl_cons]
    obtain hmax | hmem := ih (max a b)
    · rw [hmax]
      rcases le_total a b with hle | hle
      · rw [max_eq_right hle]
        exact .inr List.mem_cons_self
      · exact .inl (max_eq_left hle)
    · exact .inr (List.mem_cons_of_mem _ hmem)

/-! ### The sub-tables (R170) -/

/-- The index width of the sub-table at `p`: what the longest of its codes has beyond the root (R170). -/
def subWidth (us : List Used) (root p : Nat) : Nat := ((longer us root p).map (fun u => u.len - root)).foldl max 0

section Sub
variable {us : List Used} {root : Nat}

theorem placeSubs_cons (p : Nat) (ps : List Nat) (base : Nat) :
    placeSubs us root (p :: ps) base = ⟨p, subWidth us root p, base⟩ :: placeSubs us root ps (base + 2 ^ subWidth us root p) := rfl

theorem le_subWidth {u : Used} (hu : u ∈ us) (hlong : root < u.len) : u.len - root ≤ subWidth us root (u.rcode % 2 ^ root) :=
  (le_foldl_max _ 0).2 _ (List.mem_map_of_mem (mem_longer.2 ⟨hu, hlong, rfl⟩))

theorem subWidth_le {p m : Nat} (h : ∀ u ∈ us, u.len ≤ m) : subWidth us root p ≤ m - root := by
  obtain hzero | hmem := foldl_max_mem ((longer us root p).map (fun u => u.len - root)) 0
  · exact hzero.le.trans (Nat.zero_le _)
  · obtain ⟨u, hu, hlen⟩ := List.mem_map.1 hmem
    have hle := h u (mem_longer.1 hu).1
    rw [subWidth, ← hlen]
    omega

/-- A sub-table is as wide as its longest code needs (R170). -/
theorem exists_len_eq_subWidth {u : Used} (hu : u ∈ us) (hlong : root < u.len) :
    ∃ v ∈ us, v.rcode % 2 ^ root = u.rcode % 2 ^ root ∧ v.len = root + subWidth us root (u.rcode % 2 ^ root) := by
  have hle := le_subWidth hu hlong
  obtain hzero | hmem := foldl_max_mem ((longer us root (u.rcode % 2 ^ root)).map (fun u => u.len - root)) 0
  · rw [subWidth, hzero] at hle
    omega
  · obtain ⟨v, hv, hlen⟩ := List.mem_map.1 hmem
    obtain ⟨hmem, hvlong, hpre⟩ := mem_longer.1 hv
    exact ⟨v, hmem, hpre, by rw [subWidth, ← hlen]; omega⟩

theorem placeSubs_width {ps : List Nat} {base : Nat} {t : Sub} (ht : t ∈ placeSubs us root ps base) :
    t.pre ∈ ps ∧ t.width = subWidth us root t.pre := by
  induction ps generalizing base with
  | nil => cases ht
  | cons p ps ih =>
    rw [placeSubs_cons] at ht
    obtain rfl | ht := List.mem_cons.1 ht
    · exact ⟨List.mem_cons_self, rfl⟩
    · exact ⟨List.mem_cons_of_mem _ (ih ht).1, (ih ht).2⟩

theorem exists_mem_placeSubs {ps : List Nat} {p : Nat} (base : Nat) (hp : p ∈ ps) : ∃ t ∈ placeSubs us root ps base, t.pre = p := by
  induction ps generalizing base with
  | nil => cases hp
  | cons q ps ih =>
    rw [placeSubs_cons]
    obtain rfl | hp := List.mem_cons.1 hp
    · exact ⟨_, List.mem_cons_self, rfl⟩
    · obtain ⟨t, ht, hpre⟩ := ih (base + 2 ^ subWidth us root q) hp
      exact ⟨t, List.mem_cons_of_mem _ ht, hpre⟩

/-- The entries of the sub-tables one after another. -/
def subEntries (kind : Kind) (us : List Used) (root : Nat) (subs : List Sub) : List Entry :=
  (subs.map (fun t => (List.range (2 ^ t.width)).map (levelEntry kind (longer us root t.pre) root))).flatten

theorem subEntries_cons (kind : Kind) (t : Sub) (subs : List Sub) : subEntries kind us root (t :: subs) =
    (List.range (2 ^ t.width)).map (levelEntry kind (longer us root t.pre) root) ++ subEntries kind us root subs := rfl

/-- A sub-table stands at its offset. -/
theorem subEntries_getElem? (kind : Kind) {ps : List Nat} {base : Nat} {t : Sub} (ht : t ∈ placeSubs us root ps base) {j : Nat}
    (hj : j < 2 ^ t.width) : base ≤ t.base ∧ (subEntries kind us root (placeSubs us root ps base))[t.base - base + j]? =
      some (levelEntry kind (longer us root t.pre) root j) := by
  induction ps generalizing base with
  | nil => cases ht
  | cons p ps ih =>
    rw [placeSubs_cons] at ht ⊢
    rw [subEntries_cons]
    obtain rfl | ht := List.mem_cons.1 ht
    · refine ⟨le_rfl, ?_⟩
      rw [Nat.sub_self, Nat.zero_add, List.getElem?_append_left (by simpa using hj)]
      simp [hj]
    · obtain ⟨hbase, hget⟩ := ih ht
      have hpos := Nat.two_pow_pos (subWidth us root p)
      have hshift : t.base - base + j - 2 ^ subWidth us root p = t.base - (base + 2 ^ subWidth us root p) + j := by omega
      refine ⟨by omega, ?_⟩
      rw [List.getElem?_append_right (by simp only [List.length_map, List.length_range]; omega), List.length_map, List.length_range,
        hshift, hget]

theorem length_subEntries_le (kind : Kind) {m : Nat} (h : ∀ u ∈ us, u.len ≤ m) (ps : List Nat) (base : Nat) :
    (subEntries kind us root (placeSubs us root ps base)).length ≤ ps.length * 2 ^ (m - root) := by
  induction ps generalizing base with
  | nil => exact Nat.zero_le _
  | cons p ps ih =>
    have hwidth : 2 ^ subWidth us root p ≤ 2 ^ (m - root) := Nat.pow_le_pow_right two_pos (subWidth_le h)
    have hrest := ih (base + 2 ^ subWidth us root p)
    rw [placeSubs_cons, subEntries_cons, List.length_append, List.length_map, List.length_range, List.length_cons, Nat.succ_mul,
      Nat.add_comm]
    exact Nat.add_le_add hrest hwidth

/-! ### The sub-tables of a code -/

/-- The prefixes that have a sub-table, in the numeric order of the codes' leading bits (R170). -/
def subPrefixes (us : List Used) (root : Nat) : List Nat :=
  ((List.range (2 ^ root)).map (fun q => rev q root)).filter
    (fun p => (us.filter (fun u => root < u.len)).any (fun u => u.rcode % 2 ^ root = p))

theorem subTables_eq (us : List Used) (root : Nat) : subTables us root = placeSubs us root (subPrefixes us root) (2 ^ root) := rfl

theorem mem_subPrefixes {p : Nat} : p ∈ subPrefixes us root ↔ ∃ u ∈ us, root < u.len ∧ u.rcode % 2 ^ root = p := by
  rw [subPrefixes, List.mem_filter, List.any_eq_true]
  simp only [List.mem_filter, decide_eq_true_eq]
  constructor
  · rintro ⟨-, u, ⟨hu, hlong⟩, hp⟩
    exact ⟨u, hu, hlong, hp⟩
  · rintro ⟨u, hu, hlong, hp⟩
    refine ⟨List.mem_map.2 ⟨rev p root, List.mem_range.2 (rev_lt _ _), rev_rev ?_⟩, u, ⟨hu, hlong⟩, hp⟩
    exact hp ▸ Nat.mod_lt _ (Nat.two_pow_pos root)

theorem length_subPrefixes_le (us : List Used) (root : Nat) : (subPrefixes us root).length ≤ 2 ^ root := by
  refine (List.length_filter_le _ _).trans ?_
  rw [List.length_map, List.length_range]

/-- A sub-table stands for the first bits of a longer code, and its width is that of the longest (R170). -/
theorem subTables_prefix {t : Sub} (ht : t ∈ subTables us root) :
    (∃ u ∈ us, root < u.len ∧ u.rcode % 2 ^ root = t.pre) ∧ t.width = subWidth us root t.pre := by
  rw [subTables_eq] at ht
  obtain ⟨hpre, hwidth⟩ := placeSubs_width ht
  exact ⟨mem_subPrefixes.1 hpre, hwidth⟩

theorem exists_subTable {u : Used} (hu : u ∈ us) (hlong : root < u.len) : ∃ t ∈ subTables us root, t.pre = u.rcode % 2 ^ root := by
  rw [subTables_eq]
  exact exists_mem_placeSubs _ (mem_subPrefixes.2 ⟨u, hu, hlong, rfl⟩)

end Sub

/-! ### The table -/

section Table
variable {lens : List Nat} {root : Nat} (kind : Kind)

theorem tableOf_eq (lens : List Nat) (root : Nat) (kind : Kind) : tableOf lens root kind =
    (List.range (2 ^ root)).map (rootEntry kind (usedCodes lens) (subTables (usedCodes lens) root) root) ++
      subEntries kind (usedCodes lens) root (subTables (usedCodes lens) root) := rfl

theorem tableOf_root {i : Nat} (hi : i < 2 ^ root) :
    (tableOf lens root kind)[i]? = some (rootEntry kind (usedCodes lens) (subTables (usedCodes lens) root) root i) := by
  rw [tableOf_eq, List.getElem?_append_left (by simpa using hi)]
  simp [hi]

theorem tableOf_sub {t : Sub} (ht : t ∈ subTables (usedCodes lens) root) {j : Nat} (hj : j < 2 ^ t.width) :
    2 ^ root ≤ t.base ∧
      (tableOf lens root kind)[t.base + j]? = some (levelEntry kind (longer (usedCodes lens) root t.pre) root j) := by
  rw [subTables_eq] at ht
  obtain ⟨hbase, hget⟩ := subEntries_getElem? kind ht hj
  refine ⟨hbase, ?_⟩
  rw [tableOf_eq, List.getElem?_append_right (by simp only [List.length_map, List.length_range]; omega), List.length_map,
    List.length_range, Nat.sub_add_comm hbase, subTables_eq, hget]

theorem tableOf_sub_le {t : Sub} (ht : t ∈ subTables (usedCodes lens) root) :
    t.base + 2 ^ t.width ≤ (tableOf lens root kind).length := by
  have hpos := Nat.two_pow_pos t.width
  obtain ⟨-, hget⟩ := tableOf_sub kind ht (j := 2 ^ t.width - 1) (by omega)
  have hlt := (List.getElem?_eq_some_iff.1 hget).1
  omega

/-- A table with sub-tables has fewer than 2^16 entries: a sub-table's offset fits its link. -/
theorem length_tableOf_lt (h : ∀ l ∈ lens, l ≤ 15) (hroot : root < 15) : (tableOf lens root kind).length < 2 ^ 16 := by
  have hsub := length_subEntries_le (us := usedCodes lens) (root := root) kind (m := 15) (fun u hu => (usedCodes_len h hu).2)
    (subPrefixes (usedCodes lens) root) (2 ^ root)
  have hcount := Nat.mul_le_mul_right (2 ^ (15 - root)) (length_subPrefixes_le (usedCodes lens) root)
  rw [← Nat.pow_add, Nat.add_sub_cancel' hroot.le] at hcount
  have hroots : 2 ^ root ≤ 2 ^ 14 := Nat.pow_le_pow_right two_pos (by omega)
  rw [tableOf_eq, List.length_append, List.length_map, List.length_range, subTables_eq]
  omega

/-- A root entry is the link to a sub-table, or a symbol's or the invalid entry (R169, R170). -/
theorem rootEntry_cases (us : List Used) (root i : Nat) :
    (∃ t ∈ subTables us root, t.pre = i ∧ rootEntry kind us (subTables us root) root i =
      ⟨BitVec.ofNat 8 t.width, BitVec.ofNat 4 root, BitVec.ofNat 16 t.base⟩) ∨
    (∀ u ∈ us, root < u.len → u.rcode % 2 ^ root ≠ i) ∧
      rootEntry kind us (subTables us root) root i = levelEntry kind (us.filter (fun u => u.len ≤ root)) 0 i := by
  unfold rootEntry
  split
  · next t hfind => exact .inl ⟨t, List.mem_of_find?_eq_some hfind, by simpa using List.find?_some hfind, rfl⟩
  · next hnone =>
    refine .inr ⟨fun u hu hlong hpre => ?_, rfl⟩
    obtain ⟨t, ht, htpre⟩ := exists_subTable hu hlong
    exact List.find?_eq_none.1 hnone t ht (by simpa using htpre.trans hpre)

end Table

end Sys2Proof.Machine
end


section
/-! SUPPORT. A table decodes the canonical code (R167 to R171), and has the levels of R178. -/

namespace Sys2Proof.Machine

/-! ### The tags of the entries that are built -/

theorem entryClass_ofNat_link {w : Nat} (hpos : 1 ≤ w) (hle : w ≤ 15) : entryClass (BitVec.ofNat 8 w) = .link (BitVec.ofNat 4 w) := by
  have hall : ∀ w ≤ 15, 1 ≤ w → entryClass (BitVec.ofNat 8 w) = .link (BitVec.ofNat 4 w) := by decide
  exact hall w hle hpos

theorem entryClass_ofNat_base {x : Nat} (h : x ≤ 15) : entryClass (BitVec.ofNat 8 (0x10 + x)) = .base (BitVec.ofNat 4 x) := by
  have hall : ∀ x ≤ 15, entryClass (BitVec.ofNat 8 (0x10 + x)) = .base (BitVec.ofNat 4 x) := by decide
  exact hall x h

/-- A symbol's entry is no link (R168). -/
theorem symbolEntry_ne_link (kind : Kind) (s b : Nat) (w : BitVec 4) : entryClass (symbolEntry kind s b).op ≠ .link w := by
  have hlit : entryClass 0x00 = .lit := by decide
  have heob : entryClass 0x20 = .eob := by decide
  have hinvalid : entryClass 0x40 = .invalid := by decide
  have hlength : ∀ r ∈ lengthTable, r.2 ≤ 15 := by decide
  have hdistance : ∀ r ∈ distanceTable, r.2 ≤ 15 := by decide
  unfold symbolEntry
  split
  · split_ifs
    · exact hlit ▸ nofun
    · exact heob ▸ nofun
    · split
      · next r hr => exact entryClass_ofNat_base (hlength r (List.mem_of_getElem? hr)) ▸ nofun
      · exact hinvalid ▸ nofun
  · split
    · next r hr => exact entryClass_ofNat_base (hdistance r (List.mem_of_getElem? hr)) ▸ nofun
    · exact hinvalid ▸ nofun
  · exact hlit ▸ nofun

/-- A level without the codes that go on in sub-tables has no link (R170, R177). -/
theorem levelEntry_ne_link (kind : Kind) (us : List Used) (skip i : Nat) (w : BitVec 4) :
    entryClass (levelEntry kind us skip i).op ≠ .link w := by
  have hinvalid : entryClass 0x40 = .invalid := by decide
  obtain ⟨u, -, -, he⟩ | ⟨-, he⟩ := levelEntry_cases kind us skip i
  · rw [he]
    exact symbolEntry_ne_link kind _ _ w
  · rw [he]
    exact hinvalid ▸ nofun

theorem levelEntry_bits_le {kind : Kind} {us : List Used} {skip width : Nat} (hpos : 1 ≤ width) (hwidth : width ≤ 15)
    (h : ∀ u ∈ us, u.len - skip ≤ width) (i : Nat) : (levelEntry kind us skip i).bits.toNat ≤ width := by
  obtain ⟨u, hu, -, he⟩ | ⟨-, he⟩ := levelEntry_cases kind us skip i
  · rw [he, symbolEntry_bits_toNat _ _ ((h u hu).trans hwidth)]
    exact h u hu
  · rw [he]
    exact hpos

theorem entryAt_of_getElem? {t : List Entry} {i : Nat} {e : Entry} (h : t[i]? = some e) : entryAt t i = e := by
  rw [entryAt, List.getD_eq_getElem?_getD, h, Option.getD_some]

section Accepted
variable {lens : List Nat} {root : Nat} (h : Accepted lens) (kind : Kind)
include h

/-! ### The root (R169) -/

/-- An index that begins with a short code begins no longer one. -/
theorem Accepted.short_or_long {u v : Used} {x : Nat} (hu : u ∈ usedCodes lens) (hv : v ∈ usedCodes lens) (hshort : u.len ≤ root)
    (hlong : root < v.len) (hx : Begins x u) : v.rcode % 2 ^ root ≠ x % 2 ^ root := by
  intro hpre
  have hself : Begins v.rcode v := Nat.mod_eq_of_lt (usedCodes_rcode_lt h.le hv)
  have hbegins : Begins v.rcode u := by
    rw [Begins, ← Nat.mod_mod_of_dvd _ (Nat.pow_dvd_pow 2 hshort), hpre, Nat.mod_mod_of_dvd _ (Nat.pow_dvd_pow 2 hshort)]
    exact hx
  have huv := h.begins_unique hu hv hbegins hself
  rw [huv] at hshort
  omega

theorem Accepted.rootEntry_of_begins {u : Used} {i : Nat} (hi : i < 2 ^ root) (hu : u ∈ usedCodes lens) (hshort : u.len ≤ root)
    (hbegins : Begins i u) :
    rootEntry kind (usedCodes lens) (subTables (usedCodes lens) root) root i = symbolEntry kind u.sym u.len := by
  obtain ⟨t, ht, hpre, -⟩ | ⟨-, he⟩ := rootEntry_cases kind (usedCodes lens) root i
  · obtain ⟨⟨v, hv, hlong, hvpre⟩, -⟩ := subTables_prefix ht
    exact absurd (by rw [hvpre, hpre, Nat.mod_eq_of_lt hi]) (h.short_or_long hu hv hshort hlong hbegins)
  · rw [he]
    refine h.levelEntry_of_mem (skip := 0) (p := 0) kind (fun v hv => ⟨(List.mem_filter.1 hv).1, Nat.zero_le _, ?_⟩)
      (List.mem_filter.2 ⟨hu, by simpa using hshort⟩) ?_
    · rw [pow_zero, Nat.mod_one]
    · rw [pow_zero, Nat.div_one]
      exact hbegins

/-- An index that begins no code is left by the single 1-bit code alone (R164, R171). -/
theorem Accepted.single_of_uncovered {x : Nat} (hnone : ∀ u ∈ usedCodes lens, ¬Begins x u) : lens.filter (· ≠ 0) = [1] :=
  h.full.resolve_left fun hfull => by
    obtain ⟨u, hu, hbegins⟩ := h.exists_begins hfull x
    exact hnone u hu hbegins

/-- The three entries of the root: a link, a symbol's, and the invalid one (R169 to R171). -/
theorem Accepted.rootEntry_cases {i : Nat} (hi : i < 2 ^ root) :
    (∃ t ∈ subTables (usedCodes lens) root, t.pre = i ∧
      rootEntry kind (usedCodes lens) (subTables (usedCodes lens) root) root i =
        ⟨BitVec.ofNat 8 t.width, BitVec.ofNat 4 root, BitVec.ofNat 16 t.base⟩) ∨
    (∃ u ∈ usedCodes lens, u.len ≤ root ∧ Begins i u ∧
      rootEntry kind (usedCodes lens) (subTables (usedCodes lens) root) root i = symbolEntry kind u.sym u.len) ∨
    (rootEntry kind (usedCodes lens) (subTables (usedCodes lens) root) root i = ⟨0x40, 1, 0⟩ ∧ ∀ u ∈ usedCodes lens, ¬Begins i u) := by
  obtain hlink | ⟨hlong, he⟩ := Machine.rootEntry_cases kind (usedCodes lens) root i
  · exact .inl hlink
  obtain ⟨u, hu, hrest, -⟩ | ⟨hnone, hinvalid⟩ := levelEntry_cases kind ((usedCodes lens).filter (fun u => u.len ≤ root)) 0 i
  · obtain ⟨hmem, hshort⟩ := List.mem_filter.1 hu
    have hbegins : Begins i u := by rwa [pow_zero, Nat.div_one] at hrest
    have hshort : u.len ≤ root := by simpa using hshort
    exact .inr (.inl ⟨u, hmem, hshort, hbegins, h.rootEntry_of_begins kind hi hmem hshort hbegins⟩)
  · refine .inr (.inr ⟨he.trans hinvalid, fun u hu hbegins => ?_⟩)
    by_cases hshort : u.len ≤ root
    · refine hnone u (List.mem_filter.2 ⟨hu, by simpa using hshort⟩) ?_
      rw [pow_zero, Nat.div_one]
      exact hbegins
    · have hlt : i < 2 ^ u.len := hi.trans_le (Nat.pow_le_pow_right two_pos (by omega))
      rw [Begins, Nat.mod_eq_of_lt hlt] at hbegins
      exact hlong u hu (not_le.1 hshort) (by rw [← hbegins, Nat.mod_eq_of_lt hi])

theorem Accepted.rootEntry_of_uncovered {i : Nat} (hi : i < 2 ^ root)
    (hnone : ∀ u ∈ usedCodes lens, i % 2 ^ min u.len root ≠ u.rcode % 2 ^ root) :
    rootEntry kind (usedCodes lens) (subTables (usedCodes lens) root) root i = ⟨0x40, 1, 0⟩ ∧ lens.filter (· ≠ 0) = [1] := by
  obtain ⟨t, ht, hpre, -⟩ | ⟨u, hu, hshort, hbegins, -⟩ | ⟨he, huncovered⟩ := h.rootEntry_cases kind hi
  · obtain ⟨⟨v, hv, hlong, hvpre⟩, -⟩ := subTables_prefix ht
    exact absurd (by rw [min_eq_right hlong.le, Nat.mod_eq_of_lt hi, hvpre, hpre]) (hnone v hv)
  · have hlt : u.rcode < 2 ^ root := (usedCodes_rcode_lt h.le hu).trans_le (Nat.pow_le_pow_right two_pos hshort)
    exact absurd (by rw [min_eq_left hshort, Nat.mod_eq_of_lt hlt]; exact hbegins) (hnone u hu)
  · exact ⟨he, h.single_of_uncovered huncovered⟩

/-! ### The sub-tables (R170) -/

omit h in
theorem mem_longer_usedCodes {p : Nat} {u : Used} (hu : u ∈ longer (usedCodes lens) root p) :
    u ∈ usedCodes lens ∧ root ≤ u.len ∧ u.rcode % 2 ^ root = p := by
  obtain ⟨hmem, hlong, hpre⟩ := mem_longer.1 hu
  exact ⟨hmem, hlong.le, hpre⟩

/-- A code longer than the root is found by its link and, in the linked level, by its other bits (R170). -/
theorem Accepted.decodes_long {u : Used} (hroot : root ≤ 15) (hu : u ∈ usedCodes lens) (hlong : root < u.len) : ∃ w base,
    (tableOf lens root kind)[u.rcode % 2 ^ root]? = some ⟨BitVec.ofNat 8 w, BitVec.ofNat 4 root, BitVec.ofNat 16 base⟩ ∧
      u.len - root ≤ w ∧ (∃ v ∈ usedCodes lens, v.rcode % 2 ^ root = u.rcode % 2 ^ root ∧ v.len = root + w) ∧
      2 ^ root ≤ base ∧ base + 2 ^ w ≤ (tableOf lens root kind).length ∧ (tableOf lens root kind).length < 2 ^ 16 ∧
      ∀ j, j < 2 ^ w → j % 2 ^ (u.len - root) = u.rcode / 2 ^ root →
        (tableOf lens root kind)[base + j]? = some (symbolEntry kind u.sym (u.len - root)) := by
  have hlen := (h.len hu).2
  have hi : u.rcode % 2 ^ root < 2 ^ root := Nat.mod_lt _ (Nat.two_pow_pos root)
  obtain ⟨t, ht, hpre, he⟩ | ⟨hnone, -⟩ := Machine.rootEntry_cases kind (usedCodes lens) root (u.rcode % 2 ^ root)
  · have hwidth : t.width = subWidth (usedCodes lens) root (u.rcode % 2 ^ root) := hpre ▸ (subTables_prefix ht).2
    refine ⟨t.width, t.base, by rw [tableOf_root kind hi, he], hwidth ▸ le_subWidth hu hlong, hwidth ▸ exists_len_eq_subWidth hu hlong,
      (tableOf_sub kind ht (Nat.two_pow_pos t.width)).1, tableOf_sub_le kind ht, length_tableOf_lt kind h.le (by omega),
      fun j hj hrest => ?_⟩
    rw [(tableOf_sub kind ht hj).2, h.levelEntry_of_mem kind (fun v hv => mem_longer_usedCodes hv) (mem_longer.2 ⟨hu, hlong, hpre.symm⟩)
      hrest]
  · exact absurd rfl (hnone u hu hlong)

/-- In a sub-table every index begins with the rest of a code (R171 (c)). -/
theorem Accepted.sub_covered {t : Sub} (hpos : 1 ≤ root) (ht : t ∈ subTables (usedCodes lens) root) (j : Nat) :
    ∃ u ∈ longer (usedCodes lens) root t.pre, j % 2 ^ (u.len - root) = u.rcode / 2 ^ root := by
  obtain ⟨⟨v, hv, hlong, hpre⟩, -⟩ := subTables_prefix ht
  have hfull : kraftSum lens = 2 ^ 15 := h.full.resolve_right fun hsingle => by
    have hone := len_eq_one_of_single h.le hsingle hv
    omega
  obtain ⟨u, hu, hbegins⟩ := h.exists_begins hfull (j * 2 ^ root + t.pre)
  have hprelt : t.pre < 2 ^ root := hpre ▸ Nat.mod_lt _ (Nat.two_pow_pos root)
  have hlow : (j * 2 ^ root + t.pre) % 2 ^ root = t.pre := by rw [Nat.mul_add_mod_self_right, Nat.mod_eq_of_lt hprelt]
  have hulong : root < u.len := by
    by_contra hshort
    exact h.short_or_long hu hv (not_lt.1 hshort) hlong hbegins (hpre.trans hlow.symm)
  have hupre : u.rcode % 2 ^ root = t.pre := by
    rw [← hbegins, Nat.mod_mod_of_dvd _ (Nat.pow_dvd_pow 2 hulong.le), hlow]
  exact ⟨u, mem_longer.2 ⟨hu, hulong, hupre⟩, (rest_iff_begins hulong.le hupre).2 hbegins⟩

/-! ### The levels (R178) -/

section Levels
variable (hpos : 1 ≤ root) (hroot : root ≤ 15)
include hpos hroot

theorem Accepted.rootBits {i : Nat} (hi : i < 2 ^ root) : (entryAt (tableOf lens root kind) i).bits.toNat ≤ root := by
  rw [entryAt_of_getElem? (tableOf_root kind hi)]
  obtain ⟨t, -, -, he⟩ | ⟨u, hu, hshort, -, he⟩ | ⟨he, -⟩ := h.rootEntry_cases kind hi
  · rw [he]
    exact (toNat_ofNat_four hroot).le
  · rw [he, symbolEntry_bits_toNat _ _ (h.len hu).2]
    exact hshort
  · rw [he]
    exact hpos

theorem Accepted.rootReplicates : replicates (tableOf lens root kind) 0 root := by
  intro i hi j hj hagree
  rw [Nat.zero_add] at hagree ⊢
  rw [Nat.zero_add, entryAt_of_getElem? (tableOf_root kind hi), entryAt_of_getElem? (tableOf_root kind hj)]
  rw [entryAt_of_getElem? (tableOf_root kind hi)] at hagree
  obtain ⟨t, -, -, he⟩ | ⟨u, hu, hshort, hbegins, he⟩ | ⟨he, huncovered⟩ := h.rootEntry_cases kind hi
  · rw [he, toNat_ofNat_four hroot, Nat.mod_eq_of_lt hi, Nat.mod_eq_of_lt hj] at hagree
    rw [hagree]
  · rw [he, symbolEntry_bits_toNat _ _ (h.len hu).2] at hagree
    rw [he, h.rootEntry_of_begins kind hj hu hshort (hagree.symm.trans hbegins)]
  · have hone {u : Used} (hu : u ∈ usedCodes lens) : u.len = 1 := len_eq_one_of_single h.le (h.single_of_uncovered huncovered) hu
    rw [he]
    have hbit : i % 2 ^ 1 = j % 2 ^ 1 := by rwa [he] at hagree
    obtain ⟨t, ht, -, -⟩ | ⟨u, hu, -, hbegins, -⟩ | ⟨hj, -⟩ := h.rootEntry_cases kind hj
    · obtain ⟨⟨v, hv, hlong, -⟩, -⟩ := subTables_prefix ht
      rw [hone hv] at hlong
      omega
    · rw [Begins, hone hu, ← hbit, ← hone hu] at hbegins
      exact absurd hbegins (huncovered u hu)
    · exact hj

/-- A link of the root is to a sub-table, and names its width and its offset (R170). -/
theorem Accepted.link_cases {i : Nat} {w : BitVec 4} (hi : i < 2 ^ root)
    (hlink : entryClass (entryAt (tableOf lens root kind) i).op = .link w) : ∃ t ∈ subTables (usedCodes lens) root,
      (entryAt (tableOf lens root kind) i).val.toNat = t.base ∧ w.toNat = t.width ∧ 1 ≤ t.width ∧ t.width ≤ 15 ∧
        ∀ u ∈ longer (usedCodes lens) root t.pre, u.len - root ≤ t.width := by
  rw [entryAt_of_getElem? (tableOf_root kind hi)] at hlink ⊢
  obtain ⟨t, ht, -, he⟩ | ⟨u, -, -, -, he⟩ | ⟨he, -⟩ := h.rootEntry_cases kind hi
  · obtain ⟨⟨v, hv, hlong, hpre⟩, hwidth⟩ := subTables_prefix ht
    have hrest {u : Used} (hu : u ∈ longer (usedCodes lens) root t.pre) : u.len - root ≤ t.width := by
      obtain ⟨hmem, hulong, hupre⟩ := mem_longer.1 hu
      rw [hwidth, ← hupre]
      exact le_subWidth hmem hulong
    have hle : t.width ≤ 15 - root := hwidth ▸ subWidth_le fun u hu => (h.len hu).2
    have hwpos : 1 ≤ t.width := by
      have := hrest (mem_longer.2 ⟨hv, hlong, hpre⟩)
      omega
    have hbase : t.base < 2 ^ 16 := by
      have := tableOf_sub_le kind ht
      have := length_tableOf_lt kind h.le (root := root) (by have := (h.len hv).2; omega)
      have := Nat.two_pow_pos t.width
      omega
    rw [he] at hlink ⊢
    rw [entryClass_ofNat_link hwpos (by omega), EntryClass.link.injEq] at hlink
    refine ⟨t, ht, Nat.mod_eq_of_lt hbase, ?_, hwpos, by omega, fun u hu => hrest hu⟩
    rw [← hlink, toNat_ofNat_four (by omega)]
  · rw [he] at hlink
    exact absurd hlink (symbolEntry_ne_link kind _ _ w)
  · rw [he] at hlink
    exact absurd ((by decide : entryClass 0x40 = .invalid).symm.trans hlink) nofun

theorem Accepted.tableLevels : TableLevels (tableOf lens root kind) root where
  rootBits i hi := h.rootBits kind hpos hroot hi
  rootReplicates := h.rootReplicates kind hpos hroot
  subBits i hi w hlink j hj := by
    obtain ⟨t, ht, hbase, hw, hwpos, hwle, hrest⟩ := h.link_cases kind hpos hroot hi hlink
    rw [hw] at hj ⊢
    rw [hbase, entryAt_of_getElem? (tableOf_sub kind ht hj).2]
    exact levelEntry_bits_le hwpos hwle hrest j
  subReplicates i hi w hlink := by
    obtain ⟨t, ht, hbase, hw, -, -, -⟩ := h.link_cases kind hpos hroot hi hlink
    rw [hbase, hw]
    intro j hj k hk hagree
    rw [entryAt_of_getElem? (tableOf_sub kind ht hj).2] at hagree ⊢
    rw [entryAt_of_getElem? (tableOf_sub kind ht hk).2]
    obtain ⟨u, hu, hrest⟩ := h.sub_covered hpos ht j
    have he := h.levelEntry_of_mem kind (fun v hv => mem_longer_usedCodes hv) hu hrest
    have hlen := (h.len (mem_longer.1 hu).1).2
    rw [he, symbolEntry_bits_toNat _ _ (by omega)] at hagree
    rw [he, h.levelEntry_of_mem kind (fun v hv => mem_longer_usedCodes hv) hu (hagree.symm.trans hrest)]
  subLast i hi w hlink j hj v := by
    obtain ⟨t, ht, hbase, hw, -, -, -⟩ := h.link_cases kind hpos hroot hi hlink
    rw [hw] at hj
    rw [hbase, entryAt_of_getElem? (tableOf_sub kind ht hj).2]
    exact levelEntry_ne_link kind _ _ _ v

end Levels

end Accepted

/-- A table that reads as invalid throughout has the levels of R178. -/
theorem tableLevels_of_invalid {t : List Entry} (h : ∀ i, entryAt t i = Entry.invalid) (root : Nat) : TableLevels t root where
  rootBits i _ := by
    rw [h]
    exact Nat.zero_le _
  rootReplicates := replicates_of_const (e := Entry.invalid) (fun i _ => h _)
  subBits i _ w hlink := by
    rw [h] at hlink
    cases hlink
  subReplicates i _ w hlink := by
    rw [h] at hlink
    cases hlink
  subLast i _ w hlink := by
    rw [h] at hlink
    cases hlink

/-- Every table that is built has the levels of R178. -/
theorem tableLevels_of_build {lens : List Nat} {root : Nat} {kind : Kind} {t : List Entry} (h : ∀ l ∈ lens, l ≤ 15) (hpos : 1 ≤ root)
    (hroot : root ≤ 15) (hbuild : build lens root kind = .ok t ∨ build lens root kind = .empty t) : TableLevels t root := by
  obtain hok | hempty := hbuild
  · rw [build_ok_eq hok]
    exact (accepted_of_build h hok).tableLevels kind hpos hroot
  · refine tableLevels_of_invalid (fun i => ?_) root
    rw [build_empty_eq hempty, entryAt, List.getD_eq_getElem?_getD, List.getElem?_replicate]
    split <;> rfl

/-- Settles O13: the codes are those of R122; the root and its sub-tables hold them, and every index begins at most one. -/
theorem rootTableDecodesCanonicalCode : Obligations.RootTableDecodesCanonicalCode := by
  unfold Obligations.RootTableDecodesCanonicalCode
  refine ⟨rev_testBit, fun lens hle => ⟨usedCodes_map lens, fun u hu => usedCodes_rcode hle hu⟩, ?_,
    fun lens root kind t hle hpos hroot hbuild => tableLevels_of_build hle hpos hroot hbuild⟩
  intro lens root kind t hle hpos hbuild
  have h := accepted_of_build hle hbuild
  rw [build_ok_eq hbuild]
  refine ⟨fun u hu v hv => usedCodes_prefix_free hle h.fits hu hv, fun u hu hshort i hi hbegins => ?_, fun i hi hnone => ?_,
    fun hroot u hu hlong => h.decodes_long kind hroot hu hlong⟩
  · rw [tableOf_root kind hi, h.rootEntry_of_begins kind hi hu hshort hbegins]
  · obtain ⟨he, hsingle⟩ := h.rootEntry_of_uncovered kind hi hnone
    rw [tableOf_root kind hi, he]
    exact ⟨rfl, hsingle⟩

end Sys2Proof.Machine
end


section
/-! SUPPORT. The tables in force keep the levels of R178, and a committed micro-step leaves under a byte in the accumulator (R65 (c),
R147 (a)). -/

namespace Sys2Proof.Machine

/-! ### The levels a symbol is decoded at (R55, R177) -/

theorem namesLevel_root (tab : List Entry) (root : Nat) : namesLevel tab root 0 root := .inl ⟨rfl, rfl⟩

section Level
variable {tab : List Entry} {root base width : Nat} (htab : TableLevels tab root) (hlevel : namesLevel tab root base width)
include htab hlevel

/-- A link is found at the root only, and goes to a sub-table (R170, R177). -/
theorem namesLevel_of_link {s : State} {w : BitVec 4} (hlink : entryClass (chosenEntry tab base width s).op = .link w) :
    namesLevel tab root (chosenEntry tab base width s).val.toNat w.toNat := by
  have hindex : s.bitb.toNat % 2 ^ width < 2 ^ width := Nat.mod_lt _ (Nat.two_pow_pos _)
  obtain ⟨rfl, rfl⟩ | ⟨i, v, hi, hv, rfl, rfl⟩ := hlevel
  · rw [chosenEntry, Nat.zero_add] at hlink ⊢
    exact .inr ⟨_, w, hindex, hlink, rfl, rfl⟩
  · exact absurd hlink (htab.subLast i hi v hv _ hindex w)

theorem replicates_of_namesLevel : replicates tab base width := by
  obtain ⟨rfl, rfl⟩ | ⟨i, v, hi, hv, rfl, rfl⟩ := hlevel
  · exact htab.rootReplicates
  · exact htab.subReplicates i hi v hv

end Level

/-! ### The tables in force -/

section Tables
variable {s t u : State}

theorem TablesInForce.congr (h : TablesInForce s) (he : (t.lt, t.dt, t.ct, t.lbits, t.dbits, t.bmode, t.cmode, t.tptr, t.tneed) =
    (s.lt, s.dt, s.ct, s.lbits, s.dbits, s.bmode, s.cmode, s.tptr, s.tneed)) : TablesInForce t := by
  simp only [Prod.mk.injEq] at he
  obtain ⟨hlt, hdt, hct, hlbits, hdbits, hbmode, hcmode, htptr, htneed⟩ := he
  obtain ⟨hl, hd, hc, hlen, hdist⟩ := h
  rw [← hlt, ← hlbits] at hl
  rw [← hdt, ← hdbits] at hd
  rw [← hct] at hc
  rw [← hbmode, ← hcmode, ← hlt, ← hlbits, ← htptr, ← htneed] at hlen
  rw [← hbmode, ← hcmode, ← hdt, ← hdbits, ← htptr, ← htneed] at hdist
  exact ⟨hl, hd, hc, hlen, hdist⟩

/-- No symbol is being decoded. -/
def NoSymbol (t : State) : Prop := t.bmode = .codes → t.cmode ≠ .len ∧ t.cmode ≠ .dist

theorem tablesInForce_of_noSymbol (h : NoSymbol t) (hlt : TableLevels t.lt t.lbits.toNat) (hdt : TableLevels t.dt t.dbits.toNat)
    (hct : TableLevels t.ct 7) : TablesInForce t :=
  ⟨hlt, hdt, hct, fun hbmode hcmode => absurd hcmode (h hbmode).1, fun hbmode hcmode => absurd hcmode (h hbmode).2⟩

theorem TablesInForce.leave (h : TablesInForce s) (he : (t.lt, t.dt, t.ct, t.lbits, t.dbits) = (s.lt, s.dt, s.ct, s.lbits, s.dbits))
    (hno : NoSymbol t) : TablesInForce t := by
  simp only [Prod.mk.injEq] at he
  obtain ⟨hlt, hdt, hct, hlbits, hdbits⟩ := he
  refine tablesInForce_of_noSymbol hno ?_ ?_ ?_
  · rw [hlt, hlbits]
    exact h.lt
  · rw [hdt, hdbits]
    exact h.dt
  · rw [hct]
    exact h.ct

theorem noSymbol_of_bmode (h : t.bmode ≠ .codes) : NoSymbol t := fun hcodes => absurd hcodes h

theorem noSymbol_of_cmode (hlen : t.cmode ≠ .len) (hdist : t.cmode ≠ .dist) : NoSymbol t := fun _ => ⟨hlen, hdist⟩

theorem afterBlock_ne_codes (s : State) : afterBlock s ≠ .codes := by
  obtain h | h := afterBlock_cases s <;> rw [h] <;> nofun

theorem tablesInForce_fixed : TableLevels fixedLt 9 ∧ TableLevels fixedDt 5 :=
  ⟨tableLevels_of_build (fun l hl => (fixedLlLens_le l hl).trans (by decide)) (by decide) (by decide) (.inl build_fixedLlLens),
    tableLevels_of_build (fun l hl => (fixedDLens_le l hl).trans (by decide)) (by decide) (by decide) (.inl build_fixedDLens)⟩

/-! ### The running engine -/

/-- A committed micro-step keeps the tables' levels (R55, R170, R173, R177, R178). -/
theorem Acts.tablesInForce {n : Nat} (hacts : Acts n u t) (h : TablesInForce u) : TablesInForce t := by
  cases hacts with
  | cmf _ _ | flg _ _ | dictid _ | adler32 _ | align _ _ | bdoneRaw _ _ | cll _ _ _ | lengths _ _ _ _ _ _ _ => exact h.congr rfl
  | blkStored _ _ | blkDynamic _ _ | counts _ _ _ _ | dry _ _ => exact h.leave rfl (noSymbol_of_bmode nofun)
  | stlen _ _ | raw _ _ _ =>
    refine h.leave rfl (noSymbol_of_bmode ?_)
    dsimp only
    split
    · exact afterBlock_ne_codes u
    · nofun
  | blockEnd _ _ _ => exact h.leave rfl (noSymbol_of_bmode (afterBlock_ne_codes u))
  | literal _ _ _ _ _ | endOfBlock _ _ _ _ _ | length _ _ _ _ _ | distance _ _ _ _ _ | distExtra _ _ _ | litWrite _ _ _ _
  | copyDone _ _ _ | wash _ _ _ => exact h.leave rfl (noSymbol_of_cmode nofun nofun)
  | copyByte _ _ hcmode _ _ =>
    refine h.leave rfl (noSymbol_of_cmode ?_ ?_) <;>
    · dsimp only
      split
      · nofun
      · rw [hcmode]
        nofun
  | start _ _ _ => exact ⟨h.lt, h.dt, h.ct, fun _ _ => namesLevel_root _ _, fun _ => nofun⟩
  | lenExtra _ _ _ => exact ⟨h.lt, h.dt, h.ct, fun _ => nofun, fun _ _ => namesLevel_root _ _⟩
  | linkLen _ hbmode hcmode he hclass =>
    subst he
    exact ⟨h.lt, h.dt, h.ct, fun _ _ => namesLevel_of_link h.lt (h.lenLevel hbmode hcmode) hclass,
      fun _ hdist => absurd (hcmode.symm.trans hdist) nofun⟩
  | linkDist _ hbmode hcmode he hclass =>
    subst he
    exact ⟨h.lt, h.dt, h.ct, fun _ hlen => absurd (hcmode.symm.trans hlen) nofun,
      fun _ _ => namesLevel_of_link h.dt (h.distLevel hbmode hcmode) hclass⟩
  | blkFixed _ _ => exact tablesInForce_of_noSymbol (noSymbol_of_cmode nofun nofun) tablesInForce_fixed.1 tablesInForce_fixed.2 h.ct
  | buildCl _ _ hbuild =>
    exact tablesInForce_of_noSymbol (noSymbol_of_bmode nofun) h.lt h.dt
      (tableLevels_of_build (clLens_le u) (by decide) (by decide) (.inl hbuild))
  | @buildCodes _ lt dt _ _ hlt hdt =>
    have hlevels : TableLevels lt 9 := tableLevels_of_build (lensSlice_le _ _ u) (by decide) (by decide) (.inl hlt)
    have hdlevels : TableLevels dt 6 := tableLevels_of_build (lensSlice_le _ _ u) (by decide) (by decide) hdt
    exact tablesInForce_of_noSymbol (noSymbol_of_cmode nofun nofun) hlevels hdlevels h.ct

theorem TablesInForce.flush (h : TablesInForce s) : TablesInForce (Machine.flush s) := by
  rw [flush_delivered s]
  exact h.congr rfl

theorem TablesInForce.reached (h : TablesInForce s) (hreached : Reached s u) : TablesInForce u := by
  obtain ⟨v, n, hv, hpulls, -⟩ := hreached
  have hstart : TablesInForce v := hv.elim (fun he => he ▸ h) fun he => he ▸ h.flush
  rw [hpulls.pulled]
  exact hstart.congr rfl

theorem TablesInForce.finish (h : TablesInForce s) (r : Stop) : TablesInForce (Machine.finish r s) := h.flush.congr rfl

theorem TablesInForce.raises (h : TablesInForce u) (hraises : Raises u t) : TablesInForce t := by
  have hraise {v : State} (hv : TablesInForce v) (id : Nat) : TablesInForce (raise id v) :=
    TablesInForce.finish (s := saveCause id v) (hv.congr rfl) .err
  cases hraises with
  | plain _ => exact hraise h _
  | block _ => exact hraise (v := { u with bmode := .bbad }) (h.leave rfl (noSymbol_of_bmode nofun)) _
  | codes _ => exact hraise (v := { u with cmode := .badcode, bmode := .bbad }) (h.leave rfl (noSymbol_of_bmode nofun)) _

theorem TablesInForce.engineStep (h : TablesInForce s) (hstep : EngineStep s t) : TablesInForce t := by
  cases hstep with
  | commits hfetch hacts => exact hacts.tablesInForce (h.reached hfetch.reached)
  | stops hreached => exact (h.reached hreached).finish _
  | raises hreached hraises => exact (h.reached hreached).raises hraises

/-! ### The idle engine -/

theorem TablesInForce.resetState (h : TablesInForce s) : TablesInForce (Machine.resetState s) :=
  h.leave rfl (noSymbol_of_bmode nofun)

theorem TablesInForce.scanned (h : TablesInForce s) (n : Nat) : TablesInForce (advanceIn^[n] (abandon s)) := by
  rw [scanned_eq]
  exact h.congr rfl

theorem TablesInForce.commandStep {c : Byte} (h : TablesInForce s) (hstep : CommandStep c s t) : TablesInForce t := by
  cases hstep with
  | init _ _ => exact h.leave rfl (noSymbol_of_bmode nofun)
  | reset _ _ => exact h.resetState.congr rfl
  | syncStarved _ => exact (h.scanned 0).congr rfl
  | syncLost _ _ => exact (h.scanned _).congr rfl
  | syncFound _ _ => exact (h.scanned _).leave rfl (noSymbol_of_bmode nofun)
  | answers _ | stepAnswers _ _ | stepRuns _ _ _ _ _ _ _ | setDict _ _ | endCmd _ => exact h.congr rfl

/-- No tables are in force after reset (R371, log 1). -/
theorem tablesInForce_of_reset (hlt : t.lt = []) (hdt : t.dt = []) (hct : t.ct = []) (hbmode : t.bmode = .type) : TablesInForce t := by
  refine tablesInForce_of_noSymbol (noSymbol_of_bmode (by rw [hbmode]; nofun)) ?_ ?_ ?_
  · rw [hlt]
    exact tableLevels_nil _
  · rw [hdt]
    exact tableLevels_nil _
  · rw [hct]
    exact tableLevels_nil _

theorem TablesInForce.hostMove (h : TablesInForce s) (m : HostMove) : TablesInForce (Machine.hostMove m s) := by
  cases m with
  | writeReg reg v =>
    show TablesInForce (hostWrite reg v s)
    unfold hostWrite
    split <;> exact h.congr rfl
  | readReg reg =>
    show TablesInForce (hostRead reg s)
    unfold hostRead
    split <;> exact h.congr rfl
  | poke space a b => cases space <;> exact h.congr rfl
  | hardReset => exact tablesInForce_of_reset rfl rfl rfl rfl

theorem TablesInForce.hostStep (h : TablesInForce s) (hstep : HostStep s t) : TablesInForce t := by
  cases hstep with
  | @moves m r _ => exact TablesInForce.hostMove (s := { s with host := r }) (h.congr rfl) m
  | lays _ _ => exact h.congr rfl
  | waits => exact h

theorem TablesInForce.step (h : TablesInForce s) (hstep : Machine.step s = .next t) : TablesInForce t := by
  cases hbusy : s.busy with
  | true => exact h.engineStep (engineStep_of_step hbusy hstep)
  | false =>
    cases hcmd : s.cmd with
    | none => exact h.hostStep (hostStep_of_step hbusy hcmd hstep)
    | some c => exact TablesInForce.commandStep (s := { s with cmd := none }) (h.congr rfl) (commandStep_of_step hbusy hcmd hstep)

/-! ### The bits that are left -/

theorem needBits_bitk_le {n : Nat} (hn : n ≤ 32) (hk : s.bitk.toNat ≤ 32) (h : needBits n s = .ok () u) :
    u.bitk.toNat ≤ max s.bitk.toNat (n + 7) := by
  have hbits := (needBits_ok hn hk h).2.2
  omega

/-- On a replicated level the last byte pulled was needed for the entry that is answered (R179). -/
theorem lookup_bitk_lt {tab : List Entry} {base width : Nat} {e : Entry} (hrep : replicates tab base width) (hk : s.bitk.toNat ≤ 7)
    (h : lookup tab base width s = .ok e u) : u.bitk.toNat ≤ e.bits.toNat + 7 := by
  obtain ⟨he, j, hj, hpulls, hbefore⟩ := lookupLoop_ok h
  have hcount := pulls_bitk hpulls (by omega)
  cases j with
  | zero => omega
  | succ j =>
    have hsplit := hpulls
    rw [pulls_add] at hsplit
    obtain ⟨_, v, hv, hlast⟩ := Got.bind_ok hsplit
    have hbitv := pulls_bitk hv (by omega)
    have hagree := pulls_bitb_mod hlast (by omega) (le_refl v.bitk.toNat)
    have hshort : v.bitk.toNat < (chosenEntry tab base width u).bits.toNat :=
      replicates_of_short hrep hagree.symm (hbefore j (Nat.lt_succ_self j) v hv)
    rw [he]
    omega

/-- What is held when an element is fetched is less than a byte more than the element (R142, R179). -/
theorem Fetch.bitk_le {n : Nat} (hfetch : Fetch s n u) (h : TablesInForce s) (hk : s.bitk.toNat ≤ 7) : u.bitk.toNat ≤ n + 7 := by
  cases hfetch with
  | @field v _ _ hv hneed hn =>
    have hkv : v.bitk.toNat ≤ 7 := hv.elim (fun h => h ▸ hk) fun h => by rw [h, flush_bitk]; exact hk
    have hbits := needBits_bitk_le (by omega) (by omega) hneed
    omega
  | len hcmode hlookup => exact lookup_bitk_lt (replicates_of_namesLevel h.lt (h.lenLevel hcmode.1 hcmode.2)) hk hlookup
  | dist hcmode hlookup => exact lookup_bitk_lt (replicates_of_namesLevel h.dt (h.distLevel hcmode.1 hcmode.2)) hk hlookup
  | @cl _ e hfetch =>
    have hlookup_le {v : State} (hlookup : lookup s.ct 0 7 s = .ok e v) := lookup_bitk_lt h.ct.rootReplicates hk hlookup
    obtain ⟨v, ⟨hlookup, hneed⟩ | ⟨hlookup, -⟩⟩ := fetchCl_ok hfetch
    · have hv := hlookup_le hlookup
      have hwidth := clBits_le e
      have hbits := needBits_bitk_le (by omega) (by have := entry_bits_le e; omega) hneed
      omega
    · have hv := hlookup_le hlookup
      omega

theorem EngineStep.bitk_le (hstep : EngineStep s t) (h : TablesInForce s) (hrun : t.busy = true) (hk : s.bitk.toNat ≤ 7) :
    t.bitk.toNat ≤ 7 := by
  cases hstep with
  | commits hfetch hacts =>
    have hbits := hfetch.bitk_le h hk
    obtain ⟨m, hnm, hm, hbitk, -⟩ := hacts.drops (hfetch.held (by omega))
    omega
  | stops _ => exact absurd hrun nofun
  | raises _ hraises => cases hraises <;> exact absurd hrun nofun

end Tables

/-- Settles O60: the tables that are built have the levels of R178, a link goes one level down, and on a level no byte is pulled that
the element does not need. -/
theorem committedMicroStepHoldsUnderOneByte : Obligations.CommittedMicroStepHoldsUnderOneByte := by
  unfold Obligations.CommittedMicroStepHoldsUnderOneByte
  refine ⟨tablesInForce_of_reset rfl rfl rfl rfl, fun s t _ h hstep => ⟨h.step hstep, fun hbusy hrun hk => ?_⟩⟩
  exact (engineStep_of_step hbusy hstep).bitk_le h hrun hk

end Sys2Proof.Machine
end
